-- ==== Sys2Proof/Word.lean ====
section
/-! DEFINITION. The widths of this machine (spec R6, R9, R91): everything is unsigned, bit 0 the least significant.
Only the types and the one name of the flag register stand here. -/

namespace Sys2Proof

/-- A byte: a general register, a timer, a cell of memory, an 8-bit immediate `NN` (R20, R29, R33, R91). -/
abbrev Byte := BitVec 8

/-- Sixteen bits: an instruction word, the index register, the program counter, a stack entry (R25, R26, R27, R90). -/
abbrev Word := BitVec 16

/-- The 12-bit address field `NNN` (R91). -/
abbrev Addr12 := BitVec 12

/-- The 4-bit immediate `N` (R91). -/
abbrev Nibble := BitVec 4

/-- The index of a general register, or of a key: 0 to 15 (R20, R35). -/
abbrev Reg := Fin 16

/-- `VF`, register 15, the flag register (R21, R24). -/
abbrev VF : Reg := 15

end Sys2Proof
end

