-- ==== Sys2Proof/Syntax.lean ====
section
/-! DEFINITION. The instructions, one constructor for each row of spec/opcode_table.json (R96), and the surface
syntax of the assembler (R100).

Operands have the exact type of their field (R91), and all values of a field are legal in every instruction that has it
(R93): every term of `Instr` is a well-formed instruction. -/

namespace Sys2Proof

/-- The 34 instructions of R96, in the order of the table. `shr` and `shl` carry their `Y` field, which the hardware
ignores (R99), so that no bit of an encoding is lost. -/
inductive Instr where
  /-- `CLS`, R230. -/
  | cls
  /-- `RET`, R142. -/
  | ret
  /-- `JP NNN`, R140. -/
  | jp (nnn : Addr12)
  /-- `CALL NNN`, R141. -/
  | call (nnn : Addr12)
  /-- `SE Vx, NN`, R143. -/
  | seImm (x : Reg) (nn : Byte)
  /-- `SNE Vx, NN`, R144. -/
  | sneImm (x : Reg) (nn : Byte)
  /-- `SE Vx, Vy`, R145. -/
  | seReg (x y : Reg)
  /-- `LD Vx, NN`, R160. -/
  | ldImm (x : Reg) (nn : Byte)
  /-- `ADD Vx, NN`, R161. -/
  | addImm (x : Reg) (nn : Byte)
  /-- `LD Vx, Vy`, R162. -/
  | ldReg (x y : Reg)
  /-- `OR Vx, Vy`, R163. -/
  | orReg (x y : Reg)
  /-- `AND Vx, Vy`, R164. -/
  | andReg (x y : Reg)
  /-- `XOR Vx, Vy`, R165. -/
  | xorReg (x y : Reg)
  /-- `ADD Vx, Vy`, R166. -/
  | addReg (x y : Reg)
  /-- `SUB Vx, Vy`, R167. -/
  | sub (x y : Reg)
  /-- `SHR Vx`, R168; `y` is ignored, R99. -/
  | shr (x y : Reg)
  /-- `SUBN Vx, Vy`, R169. -/
  | subn (x y : Reg)
  /-- `SHL Vx`, R170; `y` is ignored, R99. -/
  | shl (x y : Reg)
  /-- `SNE Vx, Vy`, R146. -/
  | sneReg (x y : Reg)
  /-- `LD I, NNN`, R190. -/
  | ldI (nnn : Addr12)
  /-- `JP V0, NNN`, R147. -/
  | jpV0 (nnn : Addr12)
  /-- `RND Vx, NN`, R171. -/
  | rnd (x : Reg) (nn : Byte)
  /-- `DRW Vx, Vy, N`, R231. -/
  | drw (x y : Reg) (n : Nibble)
  /-- `SKP Vx`, R210. -/
  | skp (x : Reg)
  /-- `SKNP Vx`, R211. -/
  | sknp (x : Reg)
  /-- `LD Vx, DT`, R212. -/
  | ldVxDt (x : Reg)
  /-- `LD Vx, K`, R213. -/
  | ldVxK (x : Reg)
  /-- `LD DT, Vx`, R214. -/
  | ldDtVx (x : Reg)
  /-- `LD ST, Vx`, R215. -/
  | ldStVx (x : Reg)
  /-- `ADD I, Vx`, R191. -/
  | addI (x : Reg)
  /-- `LD F, Vx`, R192. -/
  | ldF (x : Reg)
  /-- `LD B, Vx`, R193. -/
  | ldB (x : Reg)
  /-- `LD [I], Vx`, R194. -/
  | ldMemVx (x : Reg)
  /-- `LD Vx, [I]`, R195. -/
  | ldVxMem (x : Reg)
  deriving DecidableEq, Repr

/-- The mnemonics of the assembler (R96, R100). -/
inductive Mnemonic where
  | CLS | RET | JP | CALL | SE | SNE | LD | ADD | OR | AND | XOR | SUB | SHR | SUBN | SHL | RND | DRW | SKP | SKNP
  deriving DecidableEq, Repr

/-- An operand as it is written (R100): a register `V0` to `VF`, an unsigned literal, a label, or one of the fixed
operand names `I`, `DT`, `ST`, `K`, `F`, `B`, `[I]`. -/
inductive Operand where
  | reg (n : Nat)
  | lit (n : Nat)
  | label (name : String)
  | I | DT | ST | K | F | B | memI
  deriving DecidableEq, Repr

/-- A line of assembly (R100): an instruction, a label, `DW w` or `DB b`. -/
inductive Line where
  | ins (m : Mnemonic) (operands : List Operand)
  | label (name : String)
  | dw (w : Nat)
  | db (b : Nat)
  deriving DecidableEq, Repr

end Sys2Proof
end

