-- ==== Sys2Proof/Config.lean ====
section
/-! DEFINITION. What an implementation fixes (spec R7) and the one free value of the spec (R8).
The parameters are named here and are an argument of the machine: every state carries its core's (`State.cfg`), and no
step changes them. Their default column is `Sys2Proof.Machine.defaultParams` (Machine/Params.lean), the constraints of R7 on
them are `Config.Params.wf` (WellFormed.lean). -/

namespace Sys2Proof.Config

/-- The named parameters of R7. -/
structure Params where
  /-- `MEM_SIZE`: bytes of memory. -/
  memSize : Nat
  /-- `PROG_START`: where programs are loaded and where `pc` starts. -/
  progStart : Nat
  /-- `FONT_BASE`: address of glyph 0. -/
  fontBase : Nat
  /-- `GLYPH_H`: bytes (rows) of a font glyph. -/
  glyphH : Nat
  /-- `FONT`: the `16 * GLYPH_H` font bytes. -/
  font : List Byte
  /-- `DISP_W`: display width in pixels. -/
  dispW : Nat
  /-- `DISP_H`: display height in pixels. -/
  dispH : Nat
  /-- `STACK_DEPTH`: capacity of the call stack in entries. -/
  stackDepth : Nat
  deriving DecidableEq, Repr

/-- FREE VALUE (R8, R171, D24; log entry 2). The random byte the host supplies to the `n`-th cycle: an arbitrary
sequence of bytes. It has no body, so a theorem about it holds for every sequence; nothing is said of uniformity,
which R171 makes a property of the host's generator. -/
opaque randByte (n : Nat) : Byte

end Sys2Proof.Config
end

