-- ==== Sys2Proof/Machine/Params.lean ====
section
/-! DEFINITION. The default column of R7 and the font table of R33: the parameters of `State.reset`, the one place that
reads them. Every other definition takes the parameters of its state, whatever they are (log entry 1). -/

namespace Sys2Proof.Machine

/-- The font table of R33, glyphs 0 to 7, row 0 first. -/
def fontLow : List Byte :=
  [0xF0, 0x90, 0x90, 0x90, 0xF0, 0x20, 0x60, 0x20, 0x20, 0x70, 0xF0, 0x10, 0xF0, 0x80, 0xF0, 0xF0, 0x10, 0xF0, 0x10, 0xF0,
   0x90, 0x90, 0xF0, 0x10, 0x10, 0xF0, 0x80, 0xF0, 0x10, 0xF0, 0xF0, 0x80, 0xF0, 0x90, 0xF0, 0xF0, 0x10, 0x20, 0x40, 0x40]

/-- The font table of R33, glyphs 8 to F, row 0 first. -/
def fontHigh : List Byte :=
  [0xF0, 0x90, 0xF0, 0x90, 0xF0, 0xF0, 0x90, 0xF0, 0x10, 0xF0, 0xF0, 0x90, 0xF0, 0x90, 0x90, 0xE0, 0x90, 0xE0, 0x90, 0xE0,
   0xF0, 0x80, 0x80, 0x80, 0xF0, 0xE0, 0x90, 0x90, 0x90, 0xE0, 0xF0, 0x80, 0xF0, 0x80, 0xF0, 0xF0, 0x80, 0xF0, 0x80, 0x80]

/-- The default column of R7. -/
def defaultParams : Config.Params where
  memSize := 4096
  progStart := 512
  fontBase := 0
  glyphH := 5
  font := fontLow ++ fontHigh
  dispW := 64
  dispH := 32
  stackDepth := 16

end Sys2Proof.Machine
end

