-- ==== Sys2Proof/Machine/State.lean ====
section
/-! DEFINITION. The state of the machine (10_state.md section 1) as plain data, its fault and refusal names, and the
state after reset (R39, R290, R291). -/

namespace Sys2Proof.Machine

/-- Memory as a list of cells in one canonical form (`Memory.wf`): addresses strictly rising, and none listed with the
byte an unlisted address reads as (`Memory.blank`: its reset contents). -/
abbrev Memory := List Host.Cell

/-- The display buffer, row-major: `DISP[r][c]` is entry `c` of row `r` (R34). It has `DISP_H` rows of `DISP_W` pixels
(`State.Inv`). -/
abbrev Display := List (List Bool)

/-- The sticky fault code of R32: 0 no fault, 1 stack overflow, 2 stack underflow (`FaultCode.code`). -/
inductive FaultCode where
  | none
  /-- Raised by CALL on a full stack (R141, R253). -/
  | stackOverflow
  /-- Raised by RET on an empty stack (R142, R253). -/
  | stackUnderflow
  deriving DecidableEq, Repr

/-- The architectural state (10_state.md section 1), the configuration of the core (R7, R37; log entry 1), and two fields
of the model's own for the random input (log entry 2). What the parameters bound (the length of the stack and of the
display, `SP`) is the invariant `State.Inv` (Safety.lean), which every step keeps. -/
structure State where
  /-- The parameters of this core (R7): fixed for the core, written by nothing. -/
  cfg : Config.Params
  /-- `V[0..15]`, the general registers (R20); `V[15]` is the flag register `VF` (R24). -/
  v : Vector Byte 16
  /-- `I`, the index register (R25). -/
  i : Word
  /-- `pc`, the program counter (R27). -/
  pc : Word
  /-- `STACK`, the `STACK_DEPTH` entries of the call stack (R26). -/
  stack : List Word
  /-- `SP`, how many entries are in use, 0 to `STACK_DEPTH` (R26). -/
  sp : Nat
  /-- `DT`, the delay timer (R29). -/
  dt : Byte
  /-- `ST`, the sound timer (R29). -/
  st : Byte
  /-- `MEM`, the memory (R33). -/
  mem : Memory
  /-- `DISP`, the display buffer (R34). -/
  disp : Display
  /-- `KEY`, the input table: `key[k]` says that key `k` is held (R35). -/
  key : Vector Bool 16
  /-- `DIRTY`, the display was changed since the host's last acknowledgement (R31). -/
  dirty : Bool
  /-- `TONE`, the sound timer elapsed in the latest cycle (R30). -/
  tone : Bool
  /-- `FAULT`, the sticky fault code (R32). -/
  fault : FaultCode
  /-- `UNK`, some cycle met an unknown opcode (R32, R252). -/
  unk : Bool
  /-- `UNK_WORD`, the latest unknown word (R32, R252). -/
  unkWord : Word
  /-- `UNK_PC`, the address of the latest unknown word (R32, R252). -/
  unkPc : Word
  /-- The random byte of the cycle in progress, an input of each cycle (R8); the model's own field. -/
  rand : Byte
  /-- How many random bytes have been drawn; the model's own field. -/
  draws : Nat
  deriving DecidableEq, Repr

/-- Why the machine stops. It has no constructor: nothing in the spec stops the core. Stack overflow and underflow are
recorded in `FAULT` and `run_cycle` still returns normally (R126, R262), unknown opcodes are recorded in `UNK` (R252), and
no memory access fails (R61). Raised by nobody; safe. -/
inductive Fault : Type
  deriving DecidableEq, Repr

/-- Why the model gives a request no meaning. No instruction is refused; the last two are for host operations. -/
inductive Refusal where
  /-- Raised only by an arm of `exec` whose instruction had no meaning yet (there is none now); safe. -/
  | notModelled (mnemonic : String)
  /-- Raised by `setKey` for an index outside 0 to 15, "a caller contract violation" (R263, U-12, log entry 7); safe. -/
  | keyIndexOutOfRange (index : Nat)
  /-- Raised by `hostStep` for any operation but `initialize` on a core never initialized (R292, U-14, log entry 6);
  safe. -/
  | uninitialized
  deriving DecidableEq, Repr

/-- The state after `initialize` of a core with these parameters (R39, R291). Memory lists nothing: every address reads as
its reset contents, the font and zeros (`Memory.blank`). `rand` and `draws` are the model's own (log entry 2). -/
def State.resetOf (p : Config.Params) : State where
  cfg := p
  v := Vector.replicate 16 0
  i := 0
  pc := BitVec.ofNat 16 p.progStart
  stack := List.replicate p.stackDepth 0
  sp := 0
  dt := 0
  st := 0
  mem := []
  disp := List.replicate p.dispH (List.replicate p.dispW false)
  key := Vector.replicate 16 false
  dirty := false
  tone := false
  fault := .none
  unk := false
  unkWord := 0
  unkPc := 0
  rand := 0
  draws := 0

/-- The state after `initialize` of a core with the default parameters. -/
def State.reset : State := State.resetOf defaultParams

end Sys2Proof.Machine
end

