-- ==== Sys2Proof/Machine/Memory.lean ====
section
/-! DEFINITION. The memory array as a canonical list of cells (R33, R61): what an unlisted address reads as, reading,
writing, and the canonical form. Addresses here are already reduced; `State.readByte` and `State.writeByte` (Ops.lean)
reduce them. The parameters `p` are those of the core: they say where the font stands and how long the array is. -/

namespace Sys2Proof.Machine

/-- What an address that is not listed reads as: its reset contents, the font byte inside the font region and 0
everywhere else (R33, R39). -/
def Memory.blank (p : Config.Params) (a : Nat) : Byte :=
  if p.fontBase ≤ a then p.font.getD (a - p.fontBase) 0 else 0

/-- The byte at an address. -/
def Memory.get (p : Config.Params) : Memory → Nat → Byte
  | [], a => Memory.blank p a
  | c :: m, a => if c.1 = a then c.2 else Memory.get p m a

/-- Write the byte at an address, keeping the canonical form: a byte the address reads as when it is not listed is not
listed, and the walk then goes on, so that the law of a read after a write holds of any list. -/
def Memory.set (p : Config.Params) : Memory → Nat → Byte → Memory
  | [], a, b => if b = Memory.blank p a then [] else [(a, b)]
  | c :: m, a, b =>
    if c.1 = a then
      if b = Memory.blank p a then Memory.set p m a b else (a, b) :: m
    else if a < c.1 ∧ b ≠ Memory.blank p a then (a, b) :: c :: m
    else c :: Memory.set p m a b

/-- Write bytes at consecutive addresses from `a` upward. -/
def Memory.setAll (p : Config.Params) : Memory → Nat → List Byte → Memory
  | m, _, [] => m
  | m, a, b :: bs => Memory.setAll p (Memory.set p m a b) (a + 1) bs

/-- The canonical form: addresses strictly rising and inside the array, no cell that an unlisted address would read as. -/
abbrev Memory.wf (p : Config.Params) (m : Memory) : Prop :=
  m.Pairwise (fun c d => c.1 < d.1) ∧ ∀ c ∈ m, c.1 < p.memSize ∧ c.2 ≠ Memory.blank p c.1

end Sys2Proof.Machine
end

