-- ==== Sys2Proof/Machine/Ops.lean ====
section
/-! DEFINITION. The named operations over registers, memory, the stack and the display that the meanings are written
with (R10), raising a fault, recording an unknown opcode, the timer tick, and fetching a word. -/

namespace Sys2Proof.Machine

/-! ### General registers -/

/-- `V[x]` (R10, R20). -/
def State.readV (s : State) (x : Reg) : Byte := s.v[x]

/-- `V[x] <- b` (R10, R20). -/
def State.writeV (s : State) (x : Reg) (b : Byte) : State := { s with v := s.v.set x b }

/-- `VF <- flag`, as 0 or 1 (R24). -/
def State.writeFlag (s : State) (flag : Bool) : State := s.writeV VF (if flag then 1 else 0)

/-! ### Program counter and index register -/

/-- `next`, the address after this instruction (R10). -/
def State.nextPc (s : State) : Word := s.pc + 2

/-- `skip`, the address after the next word (R10). -/
def State.skipPc (s : State) : Word := s.pc + 4

/-- `pc <- a`. -/
def State.setPc (s : State) (a : Word) : State := { s with pc := a }

/-- `pc <- next`. -/
def State.advance (s : State) : State := s.setPc s.nextPc

/-- `I <- a`. -/
def State.setI (s : State) (a : Word) : State := { s with i := a }

/-! ### Memory -/

/-- `MemRead(a, 1)`: the byte at `a mod MEM_SIZE` (R10, R61). -/
def State.readByte (s : State) (a : Nat) : Byte := s.mem.get s.cfg (a % s.cfg.memSize)

/-- `MemWrite(a, 1, b)`: writes the byte at `a mod MEM_SIZE` (R10, R61). -/
def State.writeByte (s : State) (a : Nat) (b : Byte) : State := { s with mem := s.mem.set s.cfg (a % s.cfg.memSize) b }

/-- The word fetched at `pc`: high byte at `pc`, low byte at `pc + 1`, both reduced (R62, R121). -/
def State.fetch (s : State) : Word := wordOfBytes (s.readByte s.pc.toNat) (s.readByte (s.pc.toNat + 1))

/-! ### Call stack -/

/-- `STACK[k]` (R10, R26). -/
def State.entry (s : State) (k : Nat) : Word := s.stack.getD k 0

/-- Push onto the call stack; `none` when it is full, `SP = STACK_DEPTH` (R26, R141). -/
def State.push (s : State) (w : Word) : Option State :=
  if s.sp = s.cfg.stackDepth then none
  else some { s with stack := s.stack.set s.sp w, sp := s.sp + 1 }

/-- Pop the call stack, answering the newest entry, which keeps its contents; `none` when it is empty, `SP = 0` (R26, R142). -/
def State.pop (s : State) : Option (Word × State) :=
  if s.sp = 0 then none
  else some (s.entry (s.sp - 1), { s with sp := s.sp - 1 })

/-! ### Timers -/

/-- `DT <- b`. -/
def State.setDt (s : State) (b : Byte) : State := { s with dt := b }

/-- `ST <- b`. -/
def State.setSt (s : State) (b : Byte) : State := { s with st := b }

/-- Count down by one, never below zero (R29, R124, R125). -/
def countDown (b : Byte) : Byte := if b = 0 then 0 else b - 1

/-- The tick at the end of a cycle: the delay timer (R124), then the tone signal from the sound timer as the instruction
left it, and the sound timer (R125). -/
def State.tick (s : State) : State :=
  { s with dt := countDown s.dt, tone := s.st = 1, st := countDown s.st }

/-! ### Display and input table -/

/-- `DISP[r][c]` (R34). -/
def Display.pixel (d : Display) (r c : Nat) : Bool := (d.getD r []).getD c false

/-- `DISP[r][c] <- DISP[r][c] ^ 1` (R231). -/
def Display.flip (d : Display) (r c : Nat) : Display :=
  d.modify r fun row => row.modify c (!·)

/-- Every pixel 0 (R230). -/
def Display.clear (p : Config.Params) : Display := List.replicate p.dispH (List.replicate p.dispW false)

/-- The display buffer replaced and marked dirty (R31: CLS and DRW). -/
def State.present (s : State) (d : Display) : State := { s with disp := d, dirty := true }

/-- `KEY[k]` (R35). -/
def State.held (s : State) (k : Reg) : Bool := s.key[k]

/-! ### Error conditions -/

/-- The code of R32 and R251 as the host reads it. -/
def FaultCode.code : FaultCode → BitVec 2
  | .none => 0
  | .stackOverflow => 1
  | .stackUnderflow => 2

/-- `raise`: this machine's trap entry (R10, R126, R253, R254). `FAULT` takes the code, `TONE` is 0, and nothing else
changes: no state is saved, no mode changes, `pc` stays at the offending instruction. There is no return from it: only
`State.reset` (`initialize`) clears `FAULT`. -/
def State.raise (s : State) (f : FaultCode) : State := { s with fault := f, tone := false }

/-- A cycle of a core that is already faulted: `TONE <- 0` and nothing else (R126). -/
def State.faultedCycle (s : State) : State := { s with tone := false }

/-- An unknown opcode's execute step: recorded as a diagnostic, and skipped (R252). -/
def State.recordUnknown (s : State) (op : Word) : State :=
  { s with unk := true, unkWord := op, unkPc := s.pc, pc := s.nextPc }

/-! ### The random input -/

/-- The random byte the host supplies to this cycle (R8). -/
def State.supplyRand (s : State) (b : Byte) : State := { s with rand := b }

/-- The next byte of the arbitrary sequence `Config.randByte` is drawn (R8, log entry 2). -/
def State.countDraw (s : State) : State := { s with draws := s.draws + 1 }

end Sys2Proof.Machine
end

