-- ==== Sys2Proof/Machine/Flags.lean ====
section
/-! DEFINITION. Every flag computation of the spec (R24): what each defining instruction writes to `VF`, on the exact
natural numbers (R11). -/

namespace Sys2Proof.Machine

/-- ADD Vx, Vy: the unsigned sum exceeds 255 (R166). -/
def carryOut (a b : Byte) : Bool := 255 < a.toNat + b.toNat

/-- SUB and SUBN: no borrow, the minuend is at least the subtrahend (R167, R169). -/
def notBorrow (minuend subtrahend : Byte) : Bool := subtrahend.toNat ≤ minuend.toNat

/-- SHR: bit 0 before the shift (R168). -/
def lowBit (a : Byte) : Bool := a.getLsbD 0

/-- SHL: bit 7 before the shift (R170). -/
def highBit (a : Byte) : Bool := a.getLsbD 7

/-- ADD I, Vx: the sum is past the last address of memory, `t > MEM_SIZE - 1` (R191). -/
def State.pastMemory (s : State) (t : Nat) : Bool := s.cfg.memSize - 1 < t

end Sys2Proof.Machine
end

