-- ==== Sys2Proof/Machine/Alu.lean ====
section
/-! DEFINITION. Register load, arithmetic, logic, shifts and random (42_alu.md). Operands are read before anything is
written; where there is a flag, the result is written first and the flag second (R10, R173). -/

namespace Sys2Proof.Machine

/-- Write a result to `V[x]`, no flag, and `pc <- next`. -/
def State.result (s : State) (x : Reg) (b : Byte) : State := (s.writeV x b).setPc s.nextPc

/-- Write a result to `V[x]`, then the flag to `VF`, and `pc <- next` (R173). -/
def State.resultFlag (s : State) (x : Reg) (b : Byte) (flag : Bool) : State :=
  ((s.writeV x b).writeFlag flag).setPc s.nextPc

/-- `LD Vx, NN` (R160). -/
def execLdImm (x : Reg) (nn : Byte) (s : State) : Host.Outcome State Fault Refusal :=
  .next (s.result x nn)

/-- `ADD Vx, NN` (R161): wraps modulo 256, no flag change. -/
def execAddImm (x : Reg) (nn : Byte) (s : State) : Host.Outcome State Fault Refusal :=
  .next (s.result x (s.readV x + nn))

/-- `LD Vx, Vy` (R162). -/
def execLdReg (x y : Reg) (s : State) : Host.Outcome State Fault Refusal :=
  .next (s.result x (s.readV y))

/-- `OR Vx, Vy` (R163): no flag change. -/
def execOrReg (x y : Reg) (s : State) : Host.Outcome State Fault Refusal :=
  .next (s.result x (s.readV x ||| s.readV y))

/-- `AND Vx, Vy` (R164): no flag change. -/
def execAndReg (x y : Reg) (s : State) : Host.Outcome State Fault Refusal :=
  .next (s.result x (s.readV x &&& s.readV y))

/-- `XOR Vx, Vy` (R165): no flag change. -/
def execXorReg (x y : Reg) (s : State) : Host.Outcome State Fault Refusal :=
  .next (s.result x (s.readV x ^^^ s.readV y))

/-- `ADD Vx, Vy` (R166): the sum modulo 256, `VF` the carry. -/
def execAddReg (x y : Reg) (s : State) : Host.Outcome State Fault Refusal :=
  .next (s.resultFlag x (s.readV x + s.readV y) (carryOut (s.readV x) (s.readV y)))

/-- `SUB Vx, Vy` (R167): `V[x] - V[y]` modulo 256, `VF` not-borrow. -/
def execSub (x y : Reg) (s : State) : Host.Outcome State Fault Refusal :=
  .next (s.resultFlag x (s.readV x - s.readV y) (notBorrow (s.readV x) (s.readV y)))

/-- `SHR Vx` (R168): logical, by one; `V[y]` is neither read nor written (R99). -/
def execShr (x _y : Reg) (s : State) : Host.Outcome State Fault Refusal :=
  .next (s.resultFlag x (s.readV x >>> 1) (lowBit (s.readV x)))

/-- `SUBN Vx, Vy` (R169): `V[y] - V[x]` modulo 256, `VF` not-borrow. -/
def execSubn (x y : Reg) (s : State) : Host.Outcome State Fault Refusal :=
  .next (s.resultFlag x (s.readV y - s.readV x) (notBorrow (s.readV y) (s.readV x)))

/-- `SHL Vx` (R170): modulo 256, by one; `V[y]` is neither read nor written (R99). -/
def execShl (x _y : Reg) (s : State) : Host.Outcome State Fault Refusal :=
  .next (s.resultFlag x (s.readV x <<< 1) (highBit (s.readV x)))

/-- `RND Vx, NN` (R171): the cycle's random byte AND the immediate. -/
def execRnd (x : Reg) (nn : Byte) (s : State) : Host.Outcome State Fault Refusal :=
  .next (s.result x (s.rand &&& nn))

end Sys2Proof.Machine
end

