-- ==== Sys2Proof/Machine/Operands.lean ====
section
/-! DEFINITION. Every operand form of the spec: immediates and addresses (R93), the key index (R210), the glyph address
(R192), the decimal digits (R193), the addresses `I + k` (R196), and the runs of registers that the dump and the load
move (R194, R195). -/

namespace Sys2Proof.Machine

/-- An absolute address `NNN`, zero-extended to 16 bits (R93). -/
def addrOf (nnn : Addr12) : Word := nnn.setWidth 16

/-- The key a register names: its low nibble (R210, R211). -/
def keyIndex (b : Byte) : Reg := ⟨b.toNat % 16, Nat.mod_lt _ (by decide)⟩

/-- The lowest held key (R213). -/
def State.firstHeld (s : State) : Option Reg := (List.finRange 16).find? (fun k => s.held k)

/-- The address of the glyph for the low nibble of a byte (R192). -/
def State.glyphAddr (s : State) (b : Byte) : Word :=
  BitVec.ofNat 16 (s.cfg.fontBase + b.toNat % 16 * s.cfg.glyphH)

/-- The hundreds digit (R193). -/
def hundreds (b : Byte) : Byte := BitVec.ofNat 8 (b.toNat / 100)

/-- The tens digit (R193). -/
def tens (b : Byte) : Byte := BitVec.ofNat 8 (b.toNat / 10 % 10)

/-- The ones digit (R193). -/
def ones (b : Byte) : Byte := BitVec.ofNat 8 (b.toNat % 10)

/-- `I + k`, the one addressing mode of data (R196), before the reduction of R61. -/
def State.dataAddr (s : State) (k : Nat) : Nat := s.i.toNat + k

/-- Register number `k`, for `k` below 16. -/
def regNum (k : Nat) : Reg := ⟨k % 16, Nat.mod_lt _ (by decide)⟩

/-- Memory after `V[0]` to `V[n-1]` have been stored at `I`, in ascending order (R194). -/
def State.dumpRegs (s : State) : Nat → State
  | 0 => s
  | n + 1 => (s.dumpRegs n).writeByte (s.dataAddr n) (s.readV (regNum n))

/-- The state after `V[0]` to `V[n-1]` have been loaded from `I`, in ascending order (R195). -/
def State.loadRegs (s : State) : Nat → State
  | 0 => s
  | n + 1 => (s.loadRegs n).writeV (regNum n) (s.readByte (s.dataAddr n))

end Sys2Proof.Machine
end

