-- ==== Sys2Proof/Machine/Control.lean ====
section
/-! DEFINITION. Control flow (41_control_flow.md): jump, call, return and the register skips. -/

namespace Sys2Proof.Machine

/-- A conditional skip: `pc <- skip` if the condition holds, else `pc <- next` (R123, R143). -/
def State.skipIf (s : State) (cond : Bool) : State := s.setPc (if cond then s.skipPc else s.nextPc)

/-- `JP NNN` (R140). -/
def execJp (nnn : Addr12) (s : State) : Host.Outcome State Fault Refusal :=
  .next (s.setPc (addrOf nnn))

/-- `CALL NNN` (R141): pushes `next`, or raises `StackOverflow` on a full stack. -/
def execCall (nnn : Addr12) (s : State) : Host.Outcome State Fault Refusal :=
  match s.push s.nextPc with
  | some t => .next (t.setPc (addrOf nnn))
  | none => .next (s.raise .stackOverflow)

/-- `RET` (R142): pops into `pc` with no further advance, or raises `StackUnderflow` on an empty stack. -/
def execRet (s : State) : Host.Outcome State Fault Refusal :=
  match s.pop with
  | some (w, t) => .next (t.setPc w)
  | none => .next (s.raise .stackUnderflow)

/-- `SE Vx, NN` (R143). -/
def execSeImm (x : Reg) (nn : Byte) (s : State) : Host.Outcome State Fault Refusal :=
  .next (s.skipIf (s.readV x = nn))

/-- `SNE Vx, NN` (R144). -/
def execSneImm (x : Reg) (nn : Byte) (s : State) : Host.Outcome State Fault Refusal :=
  .next (s.skipIf (s.readV x ≠ nn))

/-- `SE Vx, Vy` (R145). -/
def execSeReg (x y : Reg) (s : State) : Host.Outcome State Fault Refusal :=
  .next (s.skipIf (s.readV x = s.readV y))

/-- `SNE Vx, Vy` (R146). -/
def execSneReg (x y : Reg) (s : State) : Host.Outcome State Fault Refusal :=
  .next (s.skipIf (s.readV x ≠ s.readV y))

/-- `JP V0, NNN` (R147): the sum stays whole in the 16-bit `pc`. -/
def execJpV0 (nnn : Addr12) (s : State) : Host.Outcome State Fault Refusal :=
  .next (s.setPc (addrOf nnn + (s.readV 0).setWidth 16))

end Sys2Proof.Machine
end

