-- ==== Sys2Proof/Machine/Draw.lean ====
section
/-! DEFINITION. Display instructions (45_display.md): clear, and the XOR sprite draw with collision and wraparound. -/

namespace Sys2Proof.Machine

/-- The display while a sprite is drawn on it, and whether a sprite bit has landed on a pixel that was 1. -/
structure Canvas where
  disp : Display
  hit : Bool
  deriving DecidableEq, Repr

/-- One bit of the sprite at row `r`, column `c`, each wrapped at the display's size: a 0 bit does nothing; a 1 bit reports
the pixel it lands on and XORs it (R231). -/
def Canvas.plot (p : Config.Params) (d : Canvas) (r c : Nat) (bit : Bool) : Canvas :=
  if bit then
    { disp := d.disp.flip (r % p.dispH) (c % p.dispW), hit := d.hit || d.disp.pixel (r % p.dispH) (c % p.dispW) }
  else d

/-- The first `n` pixels of a sprite row, bit 7 of its byte the leftmost (R231, D18). -/
def Canvas.drawRow (p : Config.Params) (d : Canvas) (b : Byte) (r ox : Nat) : Nat → Canvas
  | 0 => d
  | n + 1 => (d.drawRow p b r ox n).plot p r (ox + n) (b.getLsbD (7 - n))

/-- The first `n` rows of the sprite at `I`, drawn with origin column `ox` and origin row `oy` (R231). -/
def State.drawRows (s : State) (ox oy : Nat) : Nat → Canvas
  | 0 => { disp := s.disp, hit := false }
  | n + 1 => (s.drawRows ox oy n).drawRow s.cfg (s.readByte (s.dataAddr n)) (oy + n) ox 8

/-- `CLS` (R230). -/
def execCls (s : State) : Host.Outcome State Fault Refusal :=
  .next (s.present (Display.clear s.cfg)).advance

/-- `DRW Vx, Vy, N` (R231): the origin registers are read before `VF` is written; `VF` is the collision. -/
def execDrw (x y : Reg) (n : Nibble) (s : State) : Host.Outcome State Fault Refusal :=
  let d := s.drawRows (s.readV x).toNat (s.readV y).toNat n.toNat
  .next ((s.present d.disp).writeFlag d.hit).advance

end Sys2Proof.Machine
end

