-- ==== Sys2Proof/Machine/Index.lean ====
section
/-! DEFINITION. The index register and memory instructions (43_index_memory.md). -/

namespace Sys2Proof.Machine

/-- `LD I, NNN` (R190). -/
def execLdI (nnn : Addr12) (s : State) : Host.Outcome State Fault Refusal :=
  .next (s.setI (addrOf nnn)).advance

/-- `ADD I, Vx` (R191): `I` wraps at 16 bits, `VF` says whether the sum is past the last address of memory; `V[x]` is
read before `VF` is written. -/
def execAddI (x : Reg) (s : State) : Host.Outcome State Fault Refusal :=
  let t := s.i.toNat + (s.readV x).toNat
  .next ((s.setI (BitVec.ofNat 16 t)).writeFlag (s.pastMemory t)).advance

/-- `LD F, Vx` (R192): only an address is computed. -/
def execLdF (x : Reg) (s : State) : Host.Outcome State Fault Refusal :=
  .next (s.setI (s.glyphAddr (s.readV x))).advance

/-- `LD B, Vx` (R193): hundreds, tens and ones at `I`, `I + 1`, `I + 2`. -/
def execLdB (x : Reg) (s : State) : Host.Outcome State Fault Refusal :=
  let v := s.readV x
  .next (((s.writeByte (s.dataAddr 0) (hundreds v)).writeByte (s.dataAddr 1) (tens v)).writeByte
    (s.dataAddr 2) (ones v)).advance

/-- `LD [I], Vx` (R194): stores `V[0]` to `V[x]`; `I` is not modified. -/
def execLdMemVx (x : Reg) (s : State) : Host.Outcome State Fault Refusal :=
  .next (s.dumpRegs (x.val + 1)).advance

/-- `LD Vx, [I]` (R195): loads `V[0]` to `V[x]`; `I` is not modified. -/
def execLdVxMem (x : Reg) (s : State) : Host.Outcome State Fault Refusal :=
  .next (s.loadRegs (x.val + 1)).advance

end Sys2Proof.Machine
end

