-- ==== Sys2Proof/Machine/Cycle.lean ====
section
/-! DEFINITION. One cycle (40_cycle.md): the fault check, fetch, decode, execute, and the timer tick. -/

namespace Sys2Proof.Machine

/-- What follows the instruction in a cycle: the tick, unless the instruction raised a fault (R120 steps 4 to 6, R126). -/
def State.finish (t : State) : State :=
  if t.fault = .none then t.tick else t

/-- Execute the fetched word: its instruction, or the record of an unknown opcode, and then the tick (R120 steps 3 to 6,
R252). -/
def runWord (op : Word) (s : State) : Host.Outcome State Fault Refusal :=
  match decodeWord op with
  | none => .next (s.recordUnknown op).finish
  | some i =>
    match exec i s with
    | .next t => .next t.finish
    | .fault f => .fault f
    | .refused r => .refused r

/-- `run_cycle(rand)` (R120, R262). -/
def runCycle (rand : Byte) (s : State) : Host.Outcome State Fault Refusal :=
  if s.fault = .none then runWord s.fetch (s.supplyRand rand)
  else .next (s.supplyRand rand).faultedCycle

/-- The instruction with these bits, stored where the next cycle fetches, on a core that is not faulted (a faulted core
does not fetch, R259). Nothing else changes (log entry 10). -/
def State.placeWord (s : State) (w : Word) : State :=
  let t := (s.writeByte s.pc.toNat (highByte w)).writeByte (s.pc.toNat + 1) (lowByte w)
  { t with fault := .none }

end Sys2Proof.Machine
end

