-- ==== Sys2Proof/Machine/Step.lean ====
section
/-! DEFINITION. The step: one `run_cycle` with the next random byte (R8, R120, R262). -/

namespace Sys2Proof.Machine

/-- One cycle, its random byte the next of the arbitrary sequence `Config.randByte` (log entry 2). -/
def step (s : State) : Host.Outcome State Fault Refusal :=
  runCycle (Config.randByte s.draws) s.countDraw

/-- `s` with the instruction whose table bits are `w` stored where `step` fetches next (log entry 10). -/
def State.withFetchWord (s : State) (nbits w : Nat) : State :=
  s.placeWord (tableWord nbits w)

end Sys2Proof.Machine
end

