-- ==== Sys2Proof/WellFormed.lean ====
section
/-! DEFINITION. The checks the spec asks for: the constraints of R7 on the parameters, and that what the assembler
is given fits its field (R100). An `Instr` needs none: its operands have the types of their fields, all of whose values
are legal (R93). -/

namespace Sys2Proof

/-- `MEM_SIZE` is a power of two between 256 and 65536 (R7), so that it divides 65536 and reduction is a mask (R61). -/
def Config.Params.memSizeOk (p : Config.Params) : Bool :=
  p.memSize ∈ [256, 512, 1024, 2048, 4096, 8192, 16384, 32768, 65536]

/-- `FONT_BASE + 16*GLYPH_H ≤ PROG_START < MEM_SIZE` (R7). -/
def Config.Params.layoutOk (p : Config.Params) : Bool :=
  p.fontBase + 16 * p.glyphH ≤ p.progStart && p.progStart < p.memSize

/-- `FONT` has `16 * GLYPH_H` bytes (R7). -/
def Config.Params.fontOk (p : Config.Params) : Bool :=
  p.font.length = 16 * p.glyphH

/-- `FONT_BASE` is 0, forced by the source's glyph formula (R7, D3). -/
def Config.Params.fontBaseOk (p : Config.Params) : Bool :=
  p.fontBase = 0

/-- `DISP_W ≥ 8` (R7): one sprite row never overlaps itself (R231). -/
def Config.Params.widthOk (p : Config.Params) : Bool :=
  8 ≤ p.dispW

/-- `DISP_H ≥ 15` (R7): the rows of one sprite never overlap (R231). -/
def Config.Params.heightOk (p : Config.Params) : Bool :=
  15 ≤ p.dispH

/-- `STACK_DEPTH ≥ 1` (R7). -/
def Config.Params.stackOk (p : Config.Params) : Bool :=
  1 ≤ p.stackDepth

/-- A configuration the machine may have (R7). -/
def Config.Params.wf (p : Config.Params) : Bool :=
  p.memSizeOk && p.layoutOk && p.fontOk && p.fontBaseOk && p.widthOk && p.heightOk && p.stackOk

/-- An unsigned literal fits a field of `width` bits (R100). -/
def fits (width n : Nat) : Bool :=
  n < 2 ^ width

/-- A register operand is one of `V0` to `VF`, and no literal is wider than the widest field, `NNN` (R100).
That a literal fits the field of its own instruction is checked where that field is known (`Machine.assembleIns`). -/
def Operand.wf : Operand → Bool
  | .reg n => fits 4 n
  | .lit n => fits 12 n
  | _ => true

/-- A line of assembly whose numbers fit (R100): operands as above, `DW` a word, `DB` a byte. -/
def Line.wf : Line → Bool
  | .ins _ operands => operands.all Operand.wf
  | .label _ => true
  | .dw w => fits 16 w
  | .db b => fits 8 b

end Sys2Proof
end

