-- ==== Sys2Proof/Machine/Assembler.lean ====
section
/-! DEFINITION. The assembler syntax of R100 as a function from lines to bytes, and the line of each instruction.
What an ill-formed program gives is the model's choice: an error by name (log entry 14). -/

namespace Sys2Proof.Machine

/-- Why the assembler rejects a line. -/
inductive AsmError where
  /-- No instruction has this mnemonic with these operands (R96, R100). -/
  | badOperands (m : Mnemonic)
  /-- A register, literal or label address does not fit its field (R100). -/
  | doesNotFit (n : Nat)
  /-- A label that no line defines. -/
  | undefinedLabel (name : String)
  /-- A label that two lines define. -/
  | duplicateLabel (name : String)
  deriving DecidableEq, Repr

/-- The addresses of the labels. -/
abbrev SymbolTable := List (String × Nat)

/-- A register operand `V0` to `VF`. -/
def asmReg (n : Nat) : Except AsmError Reg :=
  if h : n < 16 then .ok ⟨n, h⟩ else .error (.doesNotFit n)

/-- A literal of `width` bits (R100: it must fit its field). -/
def asmLit (width n : Nat) : Except AsmError (BitVec width) :=
  if fits width n then .ok (BitVec.ofNat width n) else .error (.doesNotFit n)

/-- A label or a literal as the number it stands for. -/
def resolve (t : SymbolTable) : Operand → Except AsmError Operand
  | .label name =>
    match t.lookup name with
    | some a => .ok (.lit a)
    | none => .error (.undefinedLabel name)
  | o => .ok o

/-- An instruction line whose labels are resolved (R96, R100): the two-operand spelling of SHR and SHL sets the `Y` field,
the one-operand spelling takes `Y = 0`. -/
def assembleIns (m : Mnemonic) (operands : List Operand) : Except AsmError Instr :=
  match m, operands with
  | .CLS, [] => .ok .cls
  | .RET, [] => .ok .ret
  | .JP, [.lit a] => do .ok (.jp (← asmLit 12 a))
  | .JP, [.reg 0, .lit a] => do .ok (.jpV0 (← asmLit 12 a))
  | .CALL, [.lit a] => do .ok (.call (← asmLit 12 a))
  | .SE, [.reg x, .lit n] => do .ok (.seImm (← asmReg x) (← asmLit 8 n))
  | .SE, [.reg x, .reg y] => do .ok (.seReg (← asmReg x) (← asmReg y))
  | .SNE, [.reg x, .lit n] => do .ok (.sneImm (← asmReg x) (← asmLit 8 n))
  | .SNE, [.reg x, .reg y] => do .ok (.sneReg (← asmReg x) (← asmReg y))
  | .LD, [.reg x, .lit n] => do .ok (.ldImm (← asmReg x) (← asmLit 8 n))
  | .LD, [.reg x, .reg y] => do .ok (.ldReg (← asmReg x) (← asmReg y))
  | .LD, [.I, .lit a] => do .ok (.ldI (← asmLit 12 a))
  | .LD, [.reg x, .DT] => do .ok (.ldVxDt (← asmReg x))
  | .LD, [.reg x, .K] => do .ok (.ldVxK (← asmReg x))
  | .LD, [.DT, .reg x] => do .ok (.ldDtVx (← asmReg x))
  | .LD, [.ST, .reg x] => do .ok (.ldStVx (← asmReg x))
  | .LD, [.F, .reg x] => do .ok (.ldF (← asmReg x))
  | .LD, [.B, .reg x] => do .ok (.ldB (← asmReg x))
  | .LD, [.memI, .reg x] => do .ok (.ldMemVx (← asmReg x))
  | .LD, [.reg x, .memI] => do .ok (.ldVxMem (← asmReg x))
  | .ADD, [.reg x, .lit n] => do .ok (.addImm (← asmReg x) (← asmLit 8 n))
  | .ADD, [.reg x, .reg y] => do .ok (.addReg (← asmReg x) (← asmReg y))
  | .ADD, [.I, .reg x] => do .ok (.addI (← asmReg x))
  | .OR, [.reg x, .reg y] => do .ok (.orReg (← asmReg x) (← asmReg y))
  | .AND, [.reg x, .reg y] => do .ok (.andReg (← asmReg x) (← asmReg y))
  | .XOR, [.reg x, .reg y] => do .ok (.xorReg (← asmReg x) (← asmReg y))
  | .SUB, [.reg x, .reg y] => do .ok (.sub (← asmReg x) (← asmReg y))
  | .SUBN, [.reg x, .reg y] => do .ok (.subn (← asmReg x) (← asmReg y))
  | .SHR, [.reg x] => do .ok (.shr (← asmReg x) 0)
  | .SHR, [.reg x, .reg y] => do .ok (.shr (← asmReg x) (← asmReg y))
  | .SHL, [.reg x] => do .ok (.shl (← asmReg x) 0)
  | .SHL, [.reg x, .reg y] => do .ok (.shl (← asmReg x) (← asmReg y))
  | .RND, [.reg x, .lit n] => do .ok (.rnd (← asmReg x) (← asmLit 8 n))
  | .DRW, [.reg x, .reg y, .lit n] => do .ok (.drw (← asmReg x) (← asmReg y) (← asmLit 4 n))
  | .SKP, [.reg x] => do .ok (.skp (← asmReg x))
  | .SKNP, [.reg x] => do .ok (.sknp (← asmReg x))
  | m, _ => .error (.badOperands m)

/-- The line of an instruction (R96, R100). -/
def lineOf : Instr → Mnemonic × List Operand
  | .cls => (.CLS, [])
  | .ret => (.RET, [])
  | .jp a => (.JP, [.lit a.toNat])
  | .call a => (.CALL, [.lit a.toNat])
  | .seImm x n => (.SE, [.reg x, .lit n.toNat])
  | .sneImm x n => (.SNE, [.reg x, .lit n.toNat])
  | .seReg x y => (.SE, [.reg x, .reg y])
  | .ldImm x n => (.LD, [.reg x, .lit n.toNat])
  | .addImm x n => (.ADD, [.reg x, .lit n.toNat])
  | .ldReg x y => (.LD, [.reg x, .reg y])
  | .orReg x y => (.OR, [.reg x, .reg y])
  | .andReg x y => (.AND, [.reg x, .reg y])
  | .xorReg x y => (.XOR, [.reg x, .reg y])
  | .addReg x y => (.ADD, [.reg x, .reg y])
  | .sub x y => (.SUB, [.reg x, .reg y])
  | .shr x y => (.SHR, [.reg x, .reg y])
  | .subn x y => (.SUBN, [.reg x, .reg y])
  | .shl x y => (.SHL, [.reg x, .reg y])
  | .sneReg x y => (.SNE, [.reg x, .reg y])
  | .ldI a => (.LD, [.I, .lit a.toNat])
  | .jpV0 a => (.JP, [.reg 0, .lit a.toNat])
  | .rnd x n => (.RND, [.reg x, .lit n.toNat])
  | .drw x y n => (.DRW, [.reg x, .reg y, .lit n.toNat])
  | .skp x => (.SKP, [.reg x])
  | .sknp x => (.SKNP, [.reg x])
  | .ldVxDt x => (.LD, [.reg x, .DT])
  | .ldVxK x => (.LD, [.reg x, .K])
  | .ldDtVx x => (.LD, [.DT, .reg x])
  | .ldStVx x => (.LD, [.ST, .reg x])
  | .addI x => (.ADD, [.I, .reg x])
  | .ldF x => (.LD, [.F, .reg x])
  | .ldB x => (.LD, [.B, .reg x])
  | .ldMemVx x => (.LD, [.memI, .reg x])
  | .ldVxMem x => (.LD, [.reg x, .memI])

/-- How many bytes a line emits. -/
def lineSize : Line → Nat
  | .ins _ _ => 2
  | .label _ => 0
  | .dw _ => 2
  | .db _ => 1

/-- The address of each label: that of the next instruction (R100). -/
def symbols : List Line → Nat → SymbolTable → Except AsmError SymbolTable
  | [], _, t => .ok t
  | .label name :: ls, a, t =>
    if (t.lookup name).isSome then .error (.duplicateLabel name) else symbols ls a ((name, a) :: t)
  | l :: ls, a, t => symbols ls (a + lineSize l) t

/-- The bytes of one line: a word high byte first, `DB` one byte (R100). -/
def lineBytes (t : SymbolTable) : Line → Except AsmError (List Byte)
  | .ins m operands => do
    let i ← assembleIns m (← operands.mapM (resolve t))
    .ok (encodeBytes i)
  | .label _ => .ok []
  | .dw w => do .ok (bytesOfWord (← asmLit 16 w))
  | .db b => do .ok [← asmLit 8 b]

/-- The program image of some lines, for `load_program` on a core with these parameters: the first line stands at
`PROG_START` (R100, R63). -/
def assemble (p : Config.Params) (ls : List Line) : Except AsmError (List Byte) := do
  let t ← symbols ls p.progStart []
  .ok (← ls.mapM (lineBytes t)).flatten

end Sys2Proof.Machine
end

