-- ==== Sys2Proof/Machine/HostOps.lean ====
section
/-! DEFINITION. The host interface (60_exceptions.md section 3): the eight operations, all between cycles (R70), and the
life of a core from before its first `initialize` (R292), with the check of its configuration (R7). -/

namespace Sys2Proof.Machine

/-- `initialize()` (R260, R290): the reset state of this core, whatever the state was. The count of random
bytes drawn so far is kept: the sequence is the host's, and goes on across a reset (log entry 2). -/
def State.initialise (s : State) : State := { State.resetOf s.cfg with draws := s.draws }

/-- Whether `load_program` succeeded (R261). -/
inductive LoadResult where
  | success
  | failure
  deriving DecidableEq, Repr

/-- `load_program(bytes)` (R261): copies the bytes to `PROG_START` upward, or fails with no change at all when they
exceed the capacity `MEM_SIZE - PROG_START`. -/
def State.loadProgram (s : State) (bytes : List Byte) : LoadResult × State :=
  if s.cfg.memSize - s.cfg.progStart < bytes.length then (.failure, s)
  else (.success, { s with mem := s.mem.setAll s.cfg s.cfg.progStart bytes })

/-- `set_key(index, pressed)` (R263). An index outside 0 to 15 is a caller contract violation: refused (log entry 7). -/
def State.setKey (s : State) (index : Nat) (pressed : Bool) : Host.Outcome State Fault Refusal :=
  if h : index < 16 then .next { s with key := s.key.set index pressed h }
  else .refused (.keyIndexOutOfRange index)

/-- What `display_snapshot` returns (R264): the grid and the changed indicator. -/
structure Snapshot where
  pixels : Display
  changed : Bool
  deriving DecidableEq, Repr

/-- `display_snapshot()` (R264): a read. -/
def State.displaySnapshot (s : State) : Snapshot := { pixels := s.disp, changed := s.dirty }

/-- `display_ack()` (R265). -/
def State.displayAck (s : State) : State := { s with dirty := false }

/-- `should_tone()` (R266): a read. -/
def State.shouldTone (s : State) : Bool := s.tone

/-- What `status` returns (R267). -/
structure Status where
  fault : BitVec 2
  unk : Bool
  unkWord : Word
  unkPc : Word
  deriving DecidableEq, Repr

/-- `status()` (R267): a read. -/
def State.status (s : State) : Status :=
  { fault := s.fault.code, unk := s.unk, unkWord := s.unkWord, unkPc := s.unkPc }

/-! ### The host's moves -/

/-- A core: its configuration alone before its first `initialize`, and a state from then on (R292). -/
inductive Instance where
  | uninitialized (cfg : Config.Params)
  | live (s : State)
  deriving DecidableEq, Repr

/-- A core with these parameters, not yet initialized, if they meet the constraints of R7; no such core otherwise. -/
def configure (p : Config.Params) : Option Instance :=
  if p.wf then some (.uninitialized p) else none

/-- The host's moves (R260 to R267). -/
inductive HostOp where
  | initialise
  | loadProgram (bytes : List Byte)
  | runCycle (rand : Byte)
  | setKey (index : Nat) (pressed : Bool)
  | displaySnapshot
  | displayAck
  | shouldTone
  | status
  deriving DecidableEq, Repr

/-- What a move returns to the host. -/
inductive Reply where
  | unit
  | load (r : LoadResult)
  | snapshot (p : Snapshot)
  | tone (b : Bool)
  | status (t : Status)
  deriving DecidableEq, Repr

/-- An outcome on a state as a move with the empty reply. -/
def moveOf : Host.Outcome State Fault Refusal → Host.Outcome (Instance × Reply) Fault Refusal
  | .next t => .next (.live t, .unit)
  | .fault f => .fault f
  | .refused r => .refused r

/-- A move on an initialized core (R260 to R267). -/
def State.move (s : State) : HostOp → Host.Outcome (Instance × Reply) Fault Refusal
  | .initialise => .next (.live s.initialise, .unit)
  | .loadProgram bytes => .next (.live (s.loadProgram bytes).2, .load (s.loadProgram bytes).1)
  | .runCycle rand => moveOf (Sys2Proof.Machine.runCycle rand s)
  | .setKey index pressed => moveOf (s.setKey index pressed)
  | .displaySnapshot => .next (.live s, .snapshot s.displaySnapshot)
  | .displayAck => .next (.live s.displayAck, .unit)
  | .shouldTone => .next (.live s, .tone s.shouldTone)
  | .status => .next (.live s, .status s.status)

/-- A move on a core (R260 to R267, R292): before the first `initialize` every other move is refused. -/
def hostStep (m : HostOp) : Instance → Host.Outcome (Instance × Reply) Fault Refusal
  | .live s => s.move m
  | .uninitialized cfg =>
    match m with
    | .initialise => .next (.live (State.resetOf cfg), .unit)
    | _ => .refused .uninitialized

/-- A session of moves, in order, stopping at the first refusal (R295: the run is a function of the moves). -/
def hostRun : List HostOp → Instance → Host.Outcome Instance Fault Refusal
  | [], c => .next c
  | m :: ms, c =>
    match hostStep m c with
    | .next (c', _) => hostRun ms c'
    | .fault f => .fault f
    | .refused r => .refused r

end Sys2Proof.Machine
end

