-- ==== Sys2Proof/Safety.lean ====
section
/-! DEFINITION. What claims speak of: the invariant, a healthy core, the parked state, the frames of instructions, which
instruction writes which piece of state, what a sprite covers, and what a program can see. -/

namespace Sys2Proof

/-! ### Which instruction writes what -/

/-- The seven instructions that define the flag register (R24). -/
def Instr.definesFlag : Instr → Bool
  | .addReg _ _ | .sub _ _ | .shr _ _ | .subn _ _ | .shl _ _ | .addI _ | .drw _ _ _ => true
  | _ => false

/-- The instruction writes general register `r` (the "writes" column of R22, with `VF` among them). -/
def Instr.writesReg (i : Instr) (r : Reg) : Bool :=
  match i with
  | .ldImm x _ | .addImm x _ | .rnd x _ | .ldReg x _ | .orReg x _ | .andReg x _ | .xorReg x _ | .ldVxDt x | .ldVxK x => r = x
  | .addReg x _ | .sub x _ | .shr x _ | .subn x _ | .shl x _ => r = x || r = VF
  | .addI _ | .drw _ _ _ => r = VF
  | .ldVxMem x => r ≤ x
  | _ => false

/-- The instruction writes `I` (10_state.md section 1). -/
def Instr.writesI : Instr → Bool
  | .ldI _ | .addI _ | .ldF _ => true
  | _ => false

/-- The instruction writes the call stack or can fault (10_state.md section 1). -/
def Instr.usesStack : Instr → Bool
  | .call _ | .ret => true
  | _ => false

/-- The instruction writes memory (10_state.md section 1). -/
def Instr.writesMem : Instr → Bool
  | .ldB _ | .ldMemVx _ => true
  | _ => false

/-- The instruction writes the display buffer and `DIRTY` (10_state.md section 1). -/
def Instr.writesDisp : Instr → Bool
  | .cls | .drw _ _ _ => true
  | _ => false

/-- The instruction writes `DT`. -/
def Instr.writesDt : Instr → Bool
  | .ldDtVx _ => true
  | _ => false

/-- The instruction writes `ST`. -/
def Instr.writesSt : Instr → Bool
  | .ldStVx _ => true
  | _ => false

end Sys2Proof

namespace Sys2Proof.Machine

/-! ### Invariant and status -/

/-- A display of `DISP_H` rows of `DISP_W` pixels (R34). -/
abbrev Display.shaped (p : Config.Params) (d : Display) : Prop :=
  d.length = p.dispH ∧ ∀ row ∈ d, row.length = p.dispW

/-- The invariant of the machine. The other bounds (16 registers, 16 keys, the fault code) are in the types. -/
structure State.Inv (s : State) : Prop where
  /-- The parameters meet the constraints of R7. -/
  cfg : s.cfg.wf = true
  /-- Memory is canonical and inside the array (R33, R61). -/
  mem : s.mem.wf s.cfg
  /-- The call stack has `STACK_DEPTH` entries (R26). -/
  stack : s.stack.length = s.cfg.stackDepth
  /-- `SP` is in `0 .. STACK_DEPTH` (R26). -/
  sp : s.sp ≤ s.cfg.stackDepth
  /-- The display has its size (R34). -/
  disp : s.disp.shaped s.cfg

/-- The invariant of a core: that of its state, and of its parameters alone before its first `initialize`. -/
def Instance.Inv : Instance → Prop
  | .uninitialized cfg => cfg.wf = true
  | .live s => s.Inv

/-- A core that is not faulted: it executes (R32, R254). -/
def State.healthy (s : State) : Prop := s.fault = .none

/-- The parked state of R129: not faulted, and the fetched word is a jump to its own address. -/
def State.parked (s : State) : Prop :=
  s.fault = .none ∧ s.pc.toNat < 4096 ∧ s.fetch = formatA 0x1#4 (BitVec.ofNat 12 s.pc.toNat)

/-- The execute part of a cycle on a core that is not faulted: the fetched instruction, or the record of an unknown
opcode (R120 step 4, R252). -/
def State.afterExecute (s : State) : Host.Outcome State Fault Refusal :=
  match decodeWord s.fetch with
  | none => .next (s.recordUnknown s.fetch)
  | some i => exec i s

/-! ### Frames: what is left unchanged -/

/-- Every byte of memory reads as before. -/
def State.sameBytes (s t : State) : Prop := ∀ a, t.readByte a = s.readByte a

/-- Every general register but those in `w` is unchanged. -/
def State.sameRegsBut (s t : State) (w : Reg → Prop) : Prop := ∀ y, ¬ w y → t.readV y = s.readV y

/-- Only the program counter may differ. -/
def State.framePc (s t : State) : Prop := t = { s with pc := t.pc } ∧ s.sameBytes t

/-- Only general registers and the program counter may differ. -/
def State.frameRegs (s t : State) : Prop := t = { s with v := t.v, pc := t.pc } ∧ s.sameBytes t

/-- Only `I`, general registers and the program counter may differ. -/
def State.frameIndex (s t : State) : Prop := t = { s with i := t.i, v := t.v, pc := t.pc } ∧ s.sameBytes t

/-- Only the call stack, its counter and the program counter may differ. -/
def State.frameStack (s t : State) : Prop := t = { s with stack := t.stack, sp := t.sp, pc := t.pc } ∧ s.sameBytes t

/-- Only memory and the program counter may differ. -/
def State.frameMem (s t : State) : Prop := t = { s with mem := t.mem, pc := t.pc }

/-- Only the two timers and the program counter may differ. -/
def State.frameTimers (s t : State) : Prop := t = { s with dt := t.dt, st := t.st, pc := t.pc } ∧ s.sameBytes t

/-- Only the display, its dirty bit, general registers and the program counter may differ. -/
def State.frameDisplay (s t : State) : Prop :=
  t = { s with disp := t.disp, dirty := t.dirty, v := t.v, pc := t.pc } ∧ s.sameBytes t

/-! ### Sprites -/

/-- A sprite of `rows` rows at `I`, drawn at column `ox` and row `oy`, has a 1 bit whose destination is the pixel in row
`r`, column `c` (R231). -/
def State.spriteCovers (s : State) (ox oy rows : Nat) (r c : Nat) : Prop :=
  ∃ j < rows, ∃ k < 8, (s.readByte (s.dataAddr j)).getLsbD (7 - k) = true ∧
    r = (oy + j) % s.cfg.dispH ∧ c = (ox + k) % s.cfg.dispW

/-! ### What can be told apart -/

/-- The state without what a program cannot observe, directly or through its own run: `ST` and what only the host reads
(R38). -/
def State.visible (s : State) : State :=
  { s with st := 0, dirty := false, tone := false, unk := false, unkWord := 0, unkPc := 0 }

/-- Equal but for stack entries at or above `SP` (R26: they are never read). -/
def State.sameLiveStack (s t : State) : Prop :=
  t = { s with stack := t.stack } ∧ t.stack.length = s.stack.length ∧ ∀ k < s.sp, t.entry k = s.entry k

/-- The same address once reduced (R61). -/
def sameReduced (p : Config.Params) (a b : Word) : Prop := a.toNat % p.memSize = b.toNat % p.memSize

/-- Equal but for program addresses, which agree reduced `mod MEM_SIZE`: `pc`, the stack entries and `UNK_PC` (R27). -/
def State.sameReducedPc (s t : State) : Prop :=
  t = { s with pc := t.pc, stack := t.stack, unkPc := t.unkPc } ∧ sameReduced s.cfg t.pc s.pc ∧
    sameReduced s.cfg t.unkPc s.unkPc ∧ t.stack.length = s.stack.length ∧
    ∀ k, sameReduced s.cfg (t.entry k) (s.entry k)

end Sys2Proof.Machine
end

