-- ==== Sys2Proof/Certificates/Slice0/Obligations.lean ====
section
/-! DEFINITION. The statements for the provers. Each docstring names the sentence of the spec it formalises. Where a clause
rests on a decision or an inference the spec marks as its own, the docstring names it. The parameters of R7 are those of the
state (`cfg`): every statement is about cores of every configuration, and where a clause needs the constraints of R7 or the
bounds they give, it has them as a premise (`cfg.wf`, `State.Inv`; that every step keeps `State.Inv` is
`StepKeepsCanonicalMemory`). -/

open Sys2Proof Sys2Proof.Machine

/-! ### Reset, fetch, memory -/

/-- R291: "`pc = PROG_START` (default 0x200); the call stack is empty; all registers, `I` and both timers are 0; the
display is blank; no key is held; `DIRTY`, `TONE`, `FAULT`, `UNK` are 0." The entry address is a constant of the core. The
machine's reset state is that of the default parameters. That keys, `DIRTY`, `TONE`, `FAULT` and `UNK` are among the state
zeroed is the spec's reading D26. -/
def Obligations.ResetEntryAndZeros : Prop :=
  (∀ (p : Config.Params) (s : State), p.wf = true → s = State.resetOf p →
    s.pc.toNat = p.progStart ∧ s.sp = 0 ∧ (∀ x, s.readV x = 0) ∧ s.i = 0 ∧ s.dt = 0 ∧ s.st = 0 ∧
    (∀ r c, s.disp.pixel r c = false) ∧ (∀ k, s.held k = false) ∧
    s.dirty = false ∧ s.tone = false ∧ s.fault = .none ∧ s.unk = false) ∧
  State.reset = State.resetOf defaultParams ∧ defaultParams.wf = true ∧ defaultParams.progStart = 0x200

/-- 10_state.md section 9 (R39; its reading of "all mutable state" is the spec's decision D26): memory holds the font from
`FONT_BASE` and zeros elsewhere, every stack entry is 0, `UNK_WORD` and `UNK_PC` are 0. The default font is decision D3; the
bytes of its glyphs 0 and F are written out from the table of 10_state.md section 7. -/
def Obligations.ResetMemoryHoldsFont : Prop :=
  (∀ (p : Config.Params) (s : State), p.wf = true → s = State.resetOf p →
    (∀ k, k < 16 * p.glyphH → s.readByte (p.fontBase + k) = p.font.getD k 0) ∧
    (∀ a, a < p.memSize → p.fontBase + 16 * p.glyphH ≤ a → s.readByte a = 0) ∧
    s.stack.length = p.stackDepth ∧ (∀ k, s.entry k = 0) ∧ s.unkWord = 0 ∧ s.unkPc = 0) ∧
  defaultParams.font.take 5 = [0xF0, 0x90, 0x90, 0x90, 0xF0] ∧
  defaultParams.font.drop 75 = [0xF0, 0x80, 0xF0, 0x80, 0x80]

/-- R62: `op = MemRead(pc,1) × 256 + MemRead(pc+1,1)`, the first byte the high-order byte. -/
def Obligations.FetchIsBigEndian : Prop :=
  ∀ s : State, s.fetch.toNat = (s.readByte s.pc.toNat).toNat * 256 + (s.readByte (s.pc.toNat + 1)).toNat

/-- R61: `MemRead(addr, 1) = MEM[addr mod MEM_SIZE]`, `MemWrite(addr, 1, v)` sets `MEM[addr mod MEM_SIZE] <- v`; the
reduction is the mask `addr & (MEM_SIZE - 1)`. A write changes that byte and no other, and nothing but memory. -/
def Obligations.AddressesReduceModMemSize : Prop :=
  ∀ (s : State) (a c : Nat) (b : Byte), s.cfg.wf = true →
    s.readByte a = s.readByte (a % s.cfg.memSize) ∧ a % s.cfg.memSize = a &&& (s.cfg.memSize - 1) ∧
    (c % s.cfg.memSize = a % s.cfg.memSize → (s.writeByte a b).readByte c = b) ∧
    (c % s.cfg.memSize ≠ a % s.cfg.memSize → (s.writeByte a b).readByte c = s.readByte c) ∧
    s.writeByte a b = { s with mem := (s.writeByte a b).mem }

/-! ### The cycle -/

/-- 40_cycle.md section 1, what a step does. Faulted (decision D25): `TONE <- 0` and nothing else. Unknown word: the
record and the tick. A decoded instruction: `exec` of it, then the tick, unless it raised a fault. `rand` and `draws` are
the model's own fields for the cycle's random input (log entry 2). -/
def Obligations.StepRunsDecodedInstruction : Prop :=
  ∀ s u : State, u = { s with rand := Config.randByte s.draws, draws := s.draws + 1 } →
    (s.fault ≠ .none → step s = .next { u with tone := false }) ∧
    (s.fault = .none → decodeWord s.fetch = none → step s = .next (u.recordUnknown s.fetch).tick) ∧
    (∀ i, s.fault = .none → decodeWord s.fetch = some i →
      step s = match exec i u with
        | .next t => .next (if t.fault = .none then t.tick else t)
        | .fault f => .fault f
        | .refused r => .refused r)

/-- R262: `run_cycle` "always succeeds from the caller's perspective"; its one input besides the state is the random byte,
and a step is a cycle with the next random byte (how the free byte is drawn is the model's convention, log entry 2). -/
def Obligations.CycleAlwaysSucceeds : Prop :=
  (∀ (rand : Byte) (s : State), ∃ t, runCycle rand s = .next t ∧ t.rand = rand ∧ t.draws = s.draws) ∧
  (∀ s : State, step s = runCycle (Config.randByte s.draws) { s with draws := s.draws + 1 })

/-- R124: `if DT > 0 then DT <- DT - 1` in every cycle that reaches step 5, whatever executed, and "nothing but
`run_cycle` ever decrements them". -/
def Obligations.DelayTimerTicksEveryCycle : Prop :=
  (∀ (rand : Byte) (s u t : State), s.healthy → (s.supplyRand rand).afterExecute = .next u → u.healthy →
    runCycle rand s = .next t → (0 < u.dt.toNat → t.dt.toNat = u.dt.toNat - 1) ∧ (u.dt.toNat = 0 → t.dt.toNat = 0)) ∧
  (∀ (s t : State) (m : HostOp) (r : Reply), (∀ b, m ≠ .runCycle b) → m ≠ .initialise →
    hostStep m (.live s) = .next (.live t, r) → t.dt = s.dt ∧ t.st = s.st)

/-- R125: `TONE <- (ST == 1) ? 1 : 0`, `ST` as the instruction left it; then `if ST > 0 then ST <- ST - 1`. -/
def Obligations.SoundTimerTickDrivesTone : Prop :=
  ∀ (rand : Byte) (s u t : State), s.healthy → (s.supplyRand rand).afterExecute = .next u → u.healthy →
    runCycle rand s = .next t →
    (t.tone = true ↔ u.st.toNat = 1) ∧ (0 < u.st.toNat → t.st.toNat = u.st.toNat - 1) ∧ (u.st.toNat = 0 → t.st.toNat = 0)

/-- 40_cycle.md section 2, the paragraph on same-cycle interaction ("Because the tick follows execution inside the same
cycle", marked as the spec's inference): (a) LD DT, Vx leaves `V[X] - 1`; (b) LD ST, Vx leaves `V[X] - 1` and raises the
tone when `V[X] = 1`; (c) LD Vx, DT reads `DT` before the tick. -/
def Obligations.TimerLoadTicksInItsOwnCycle : Prop :=
  ∀ (s : State) (x : Reg), s.healthy →
    (decodeWord s.fetch = some (.ldDtVx x) → ∃ t, step s = .next t ∧ t.dt.toNat = (s.readV x).toNat - 1) ∧
    (decodeWord s.fetch = some (.ldStVx x) → ∃ t, step s = .next t ∧ t.st.toNat = (s.readV x).toNat - 1 ∧
      (t.tone = true ↔ (s.readV x).toNat = 1)) ∧
    (decodeWord s.fetch = some (.ldVxDt x) → ∃ t, step s = .next t ∧ t.readV x = s.dt ∧ t.dt.toNat = s.dt.toNat - 1)

/-- 40_cycle.md section 2, faulting and faulted cycles (decisions D11, D25): a CALL on a full stack and a RET on an empty
one record `FAULT` and `TONE <- 0` and change nothing else, timers included; every later cycle writes `TONE <- 0` only. -/
def Obligations.StackFaultFreezesTheCore : Prop :=
  ∀ s : State,
    (∀ a, s.healthy → decodeWord s.fetch = some (.call a) → s.sp = s.cfg.stackDepth → ∃ t, step s = .next t ∧
      t = { s with fault := .stackOverflow, tone := false, rand := t.rand, draws := t.draws } ∧ t.fault.code = 1) ∧
    (s.healthy → decodeWord s.fetch = some .ret → s.sp = 0 → ∃ t, step s = .next t ∧
      t = { s with fault := .stackUnderflow, tone := false, rand := t.rand, draws := t.draws } ∧ t.fault.code = 2) ∧
    (¬ s.healthy → ∃ t, step s = .next t ∧ t = { s with tone := false, rand := t.rand, draws := t.draws })

/-- 60_exceptions.md section 1: "No instruction other than CALL and RET can fault." A cycle that leaves a core faulted
which was not is a CALL on a full stack or a RET on an empty one (decision D11). -/
def Obligations.OnlyCallAndRetFault : Prop :=
  ∀ s t : State, s.healthy → step s = .next t → ¬ t.healthy →
    (∃ a, decodeWord s.fetch = some (.call a) ∧ s.sp = s.cfg.stackDepth ∧ t.fault = .stackOverflow) ∨
    (decodeWord s.fetch = some .ret ∧ s.sp = 0 ∧ t.fault = .stackUnderflow)

/-- 60_exceptions.md section 1, unknown opcode (decision D22 for the form of the record): skipped and reported, the timers
tick, nothing else changes. -/
def Obligations.UnknownOpcodeIsSkippedAndReported : Prop :=
  ∀ s : State, s.healthy → unknownOpcode s.fetch = true → ∃ t, step s = .next t ∧
    t.unk = true ∧ t.unkWord = s.fetch ∧ t.unkPc = s.pc ∧ t.pc = s.pc + 2 ∧
    t.dt.toNat = s.dt.toNat - 1 ∧ t.st.toNat = s.st.toNat - 1 ∧ (t.tone = true ↔ s.st.toNat = 1) ∧
    s.sameBytes t ∧
    t = { s with unk := t.unk, unkWord := t.unkWord, unkPc := t.unkPc, pc := t.pc, dt := t.dt, st := t.st,
                 tone := t.tone, rand := t.rand, draws := t.draws }

/-- 40_cycle.md section 3, the parked state (decision D27): a jump to its own address "leaves all state but the timers
fixed from then on" (the tone signal goes with the sound timer). -/
def Obligations.ParkedStateStaysParked : Prop :=
  ∀ s : State, s.parked → ∃ t, step s = .next t ∧ t.parked ∧
    t = { s with dt := t.dt, st := t.st, tone := t.tone, rand := t.rand, draws := t.draws }

/-! ### Control flow -/

/-- R140, R147: `pc <- zext_16(NNN)`; `pc <- (zext_16(NNN) + zext_16(V[0])) mod 65536`; and nothing else. -/
def Obligations.JumpsSetPc : Prop :=
  ∀ (nnn : Addr12) (s : State),
    (∃ t, exec (.jp nnn) s = .next t ∧ t.pc.toNat = nnn.toNat ∧ s.framePc t) ∧
    (∃ t, exec (.jpV0 nnn) s = .next t ∧ t.pc.toNat = (nnn.toNat + (s.readV 0).toNat) % 65536 ∧ s.framePc t)

/-- R143, R144, R145, R146: the four register skips, `skip` = pc + 4 if the condition holds, else `next` = pc + 2. -/
def Obligations.RegisterSkips : Prop :=
  ∀ (x y : Reg) (nn : Byte) (s : State),
    (∃ t, exec (.seImm x nn) s = .next t ∧ t.pc = (if s.readV x = nn then s.pc + 4 else s.pc + 2) ∧ s.framePc t) ∧
    (∃ t, exec (.sneImm x nn) s = .next t ∧ t.pc = (if s.readV x ≠ nn then s.pc + 4 else s.pc + 2) ∧ s.framePc t) ∧
    (∃ t, exec (.seReg x y) s = .next t ∧ t.pc = (if s.readV x = s.readV y then s.pc + 4 else s.pc + 2) ∧ s.framePc t) ∧
    (∃ t, exec (.sneReg x y) s = .next t ∧ t.pc = (if s.readV x ≠ s.readV y then s.pc + 4 else s.pc + 2) ∧ s.framePc t)

/-- 41_control_flow.md, CALL (the pushed value is decision D10, the fault D11): with room on the stack it pushes the
address after itself and jumps; on a full stack it raises StackOverflow and has no other effect. -/
def Obligations.CallPushesNextAndJumps : Prop :=
  ∀ (nnn : Addr12) (s : State),
    (s.Inv → s.sp < s.cfg.stackDepth → ∃ t, exec (.call nnn) s = .next t ∧ t.entry s.sp = s.pc + 2 ∧ t.sp = s.sp + 1 ∧
      t.pc.toNat = nnn.toNat ∧ (∀ k, k ≠ s.sp → t.entry k = s.entry k) ∧ t.stack.length = s.stack.length ∧
      s.frameStack t) ∧
    (s.sp = s.cfg.stackDepth → exec (.call nnn) s = .next { s with fault := .stackOverflow, tone := false })

/-- 41_control_flow.md, RET (no further advance is decision D10, the fault D11): with an entry on the stack it takes the
newest one into `pc`; on an empty stack it raises StackUnderflow and has no other effect. Entries keep their contents. -/
def Obligations.ReturnPopsIntoPc : Prop :=
  ∀ s : State,
    (0 < s.sp → ∃ t, exec .ret s = .next t ∧ t.pc = s.entry (s.sp - 1) ∧ t.sp = s.sp - 1 ∧ t.stack = s.stack ∧
      s.frameStack t) ∧
    (s.sp = 0 → exec .ret s = .next { s with fault := .stackUnderflow, tone := false })

/-- 95_test_vectors.md S-6 (and decision D10): a CALL followed immediately by RET "ends exactly where it would have been
had the call never executed": two steps, and `pc` is past the CALL, the stack counter as before. -/
def Obligations.CallThenReturnResumesAfterCall : Prop :=
  ∀ (s t : State) (a : Addr12), s.Inv → s.healthy → s.sp < s.cfg.stackDepth → decodeWord s.fetch = some (.call a) →
    step s = .next t → decodeWord t.fetch = some .ret →
    ∃ u, step t = .next u ∧ u.pc = s.pc + 2 ∧ u.sp = s.sp ∧ u.healthy ∧ u.v = s.v ∧ u.i = s.i ∧ s.sameBytes u

/-! ### ALU -/

/-- R160, R161: `V[X] <- NN`; `V[X] <- (V[X] + NN) mod 256`, no flag change; `pc <- next`. -/
def Obligations.LoadAndAddImmediate : Prop :=
  ∀ (x : Reg) (nn : Byte) (s : State),
    (∃ t, exec (.ldImm x nn) s = .next t ∧ t.readV x = nn ∧ t.pc = s.pc + 2 ∧ s.sameRegsBut t (· = x) ∧ s.frameRegs t) ∧
    (∃ t, exec (.addImm x nn) s = .next t ∧ (t.readV x).toNat = ((s.readV x).toNat + nn.toNat) % 256 ∧
      t.pc = s.pc + 2 ∧ s.sameRegsBut t (· = x) ∧ s.frameRegs t)

/-- R162, R163, R164, R165: `V[X] <- V[Y]`, `V[X] | V[Y]`, `V[X] & V[Y]`, `V[X] ^ V[Y]`; no flag change; `pc <- next`. -/
def Obligations.CopyAndLogic : Prop :=
  ∀ (x y : Reg) (s : State),
    (∃ t, exec (.ldReg x y) s = .next t ∧ t.readV x = s.readV y ∧ t.pc = s.pc + 2 ∧ s.sameRegsBut t (· = x) ∧
      s.frameRegs t) ∧
    (∃ t, exec (.orReg x y) s = .next t ∧ t.readV x = s.readV x ||| s.readV y ∧ t.pc = s.pc + 2 ∧
      s.sameRegsBut t (· = x) ∧ s.frameRegs t) ∧
    (∃ t, exec (.andReg x y) s = .next t ∧ t.readV x = s.readV x &&& s.readV y ∧ t.pc = s.pc + 2 ∧
      s.sameRegsBut t (· = x) ∧ s.frameRegs t) ∧
    (∃ t, exec (.xorReg x y) s = .next t ∧ t.readV x = s.readV x ^^^ s.readV y ∧ t.pc = s.pc + 2 ∧
      s.sameRegsBut t (· = x) ∧ s.frameRegs t)

/-- R166: `s <- V[X] + V[Y]`; `V[X] <- s mod 256`; `VF <- (s > 255) ? 1 : 0`; that the flag stands with
`X = 15` is the spec's decision D12. -/
def Obligations.AddSetsCarry : Prop :=
  ∀ (x y : Reg) (s : State), ∃ t, exec (.addReg x y) s = .next t ∧
    (x ≠ VF → (t.readV x).toNat = ((s.readV x).toNat + (s.readV y).toNat) % 256) ∧
    t.readV VF = (if 255 < (s.readV x).toNat + (s.readV y).toNat then 1 else 0) ∧
    t.pc = s.pc + 2 ∧ s.sameRegsBut t (fun r => r = x ∨ r = VF) ∧ s.frameRegs t

/-- R167, R169: `V[X] <- (a + 256 - b) mod 256`, `VF` 1 when there is no borrow, equality included; SUBN with the operands
exchanged; that the flag stands with `X = 15` is the spec's decision D12. -/
def Obligations.SubtractSetsNotBorrow : Prop :=
  ∀ (x y : Reg) (s : State),
    (∃ t, exec (.sub x y) s = .next t ∧
      (x ≠ VF → (t.readV x).toNat = ((s.readV x).toNat + 256 - (s.readV y).toNat) % 256) ∧
      t.readV VF = (if (s.readV y).toNat ≤ (s.readV x).toNat then 1 else 0) ∧
      t.pc = s.pc + 2 ∧ s.sameRegsBut t (fun r => r = x ∨ r = VF) ∧ s.frameRegs t) ∧
    (∃ t, exec (.subn x y) s = .next t ∧
      (x ≠ VF → (t.readV x).toNat = ((s.readV y).toNat + 256 - (s.readV x).toNat) % 256) ∧
      t.readV VF = (if (s.readV x).toNat ≤ (s.readV y).toNat then 1 else 0) ∧
      t.pc = s.pc + 2 ∧ s.sameRegsBut t (fun r => r = x ∨ r = VF) ∧ s.frameRegs t)

/-- R168, R170: shift by one, logical; `VF` the bit shifted out; the `Y` field is ignored (30_encoding.md
section 4); that the flag stands with `X = 15` is the spec's decision D12. -/
def Obligations.ShiftsReportTheBitShiftedOut : Prop :=
  ∀ (x y : Reg) (s : State),
    (∃ t, exec (.shr x y) s = .next t ∧ (x ≠ VF → (t.readV x).toNat = (s.readV x).toNat / 2) ∧
      (t.readV VF).toNat = (s.readV x).toNat % 2 ∧
      t.pc = s.pc + 2 ∧ s.sameRegsBut t (fun r => r = x ∨ r = VF) ∧ s.frameRegs t) ∧
    (∃ t, exec (.shl x y) s = .next t ∧ (x ≠ VF → (t.readV x).toNat = (s.readV x).toNat * 2 % 256) ∧
      (t.readV VF).toNat = (s.readV x).toNat / 128 ∧
      t.pc = s.pc + 2 ∧ s.sameRegsBut t (fun r => r = x ∨ r = VF) ∧ s.frameRegs t) ∧
    (∀ y', exec (.shr x y') s = exec (.shr x y) s ∧ exec (.shl x y') s = exec (.shl x y) s)

/-- R171: `V[X] <- rand & NN` for every random byte of the cycle; `pc <- next`. At the level of a cycle the byte is the one
the host supplies (a free input, the spec's decision D24). -/
def Obligations.RandomIsMasked : Prop :=
  ∀ (x : Reg) (nn : Byte) (s : State),
    (∃ t, exec (.rnd x nn) s = .next t ∧ t.readV x = s.rand &&& nn ∧ t.pc = s.pc + 2 ∧ s.sameRegsBut t (· = x) ∧
      s.frameRegs t) ∧
    (∀ rand : Byte, s.healthy → decodeWord s.fetch = some (.rnd x nn) →
      ∃ t, runCycle rand s = .next t ∧ t.readV x = rand &&& nn)

/-- 10_state.md section 3: "Flag register always holds exactly 0 or 1 after the instructions that define it", for every
operand choice (with `X = 15` by decision D12). -/
def Obligations.FlagIsZeroOrOne : Prop :=
  ∀ (i : Instr) (s t : State), i.definesFlag = true → exec i s = .next t → t.readV VF = 0 ∨ t.readV VF = 1

/-- The "writes" column of the table of 10_state.md section 2, over all instructions: a register an instruction does not
name as written is unchanged, `VF` included ("No other instruction writes `VF` as a side effect"). -/
def Obligations.OnlyNamedRegistersChange : Prop :=
  ∀ (i : Instr) (s t : State) (r : Reg), exec i s = .next t → i.writesReg r = false → t.readV r = s.readV r

/-- The "written by" column of 10_state.md section 1, over all instructions: `I`, memory, stack, display, `DT`, `ST`
change only under the instructions listed for them; keys and `UNK*` under none (a raised fault clears `TONE`), nor do the
parameters (R37). -/
def Obligations.OnlyListedInstructionsWriteEachPiece : Prop :=
  ∀ (i : Instr) (s t : State), exec i s = .next t →
    (i.writesI = false → t.i = s.i) ∧ (i.writesMem = false → s.sameBytes t ∧ t.mem = s.mem) ∧
    (i.usesStack = false → t.stack = s.stack ∧ t.sp = s.sp ∧ t.fault = s.fault ∧ t.tone = s.tone) ∧
    (i.writesDisp = false → t.disp = s.disp ∧ t.dirty = s.dirty) ∧
    (i.writesDt = false → t.dt = s.dt) ∧ (i.writesSt = false → t.st = s.st) ∧
    t.key = s.key ∧ t.unk = s.unk ∧ t.unkWord = s.unkWord ∧ t.unkPc = s.unkPc ∧ t.rand = s.rand ∧ t.draws = s.draws ∧
    t.cfg = s.cfg

/-! ### Index register and memory -/

/-- 43_index_memory.md, LD I, NNN (an instruction supplied by decision D8): `I <- zext_16(NNN)`; `pc <- next`. -/
def Obligations.LoadIndex : Prop :=
  ∀ (nnn : Addr12) (s : State), ∃ t, exec (.ldI nnn) s = .next t ∧ t.i.toNat = nnn.toNat ∧ t.pc = s.pc + 2 ∧
    t.v = s.v ∧ s.frameIndex t

/-- 43_index_memory.md, ADD I, Vx (wrap and flag are decision D13, the order D12): `t <- I + V[X]`; `I <- t mod 65536`;
`VF <- (t > MEM_SIZE - 1) ? 1 : 0`. -/
def Obligations.AddIndexSetsRangeFlag : Prop :=
  ∀ (x : Reg) (s : State), ∃ t, exec (.addI x) s = .next t ∧
    t.i.toNat = (s.i.toNat + (s.readV x).toNat) % 65536 ∧
    t.readV VF = (if s.cfg.memSize - 1 < s.i.toNat + (s.readV x).toNat then 1 else 0) ∧
    t.pc = s.pc + 2 ∧ s.sameRegsBut t (· = VF) ∧ s.frameIndex t

/-- R192: `I <- FONT_BASE + (V[X] & 0x0F) * GLYPH_H`; `pc <- next`. -/
def Obligations.GlyphAddress : Prop :=
  ∀ (x : Reg) (s : State), s.cfg.wf = true → ∃ t, exec (.ldF x) s = .next t ∧
    t.i.toNat = s.cfg.fontBase + (s.readV x &&& 0x0F).toNat * s.cfg.glyphH ∧ t.pc = s.pc + 2 ∧ t.v = s.v ∧ s.frameIndex t

/-- R193: hundreds, tens and ones of `V[X]` at `I`, `I + 1`, `I + 2`, reduced; every other byte and `I` unchanged. -/
def Obligations.DecimalDigitsAreStored : Prop :=
  ∀ (x : Reg) (s : State), s.cfg.wf = true → ∃ t, exec (.ldB x) s = .next t ∧
    (t.readByte (s.dataAddr 0)).toNat = (s.readV x).toNat / 100 ∧
    (t.readByte (s.dataAddr 1)).toNat = (s.readV x).toNat / 10 % 10 ∧
    (t.readByte (s.dataAddr 2)).toNat = (s.readV x).toNat % 10 ∧
    (∀ a, (∀ k < 3, a % s.cfg.memSize ≠ s.dataAddr k % s.cfg.memSize) → t.readByte a = s.readByte a) ∧
    t.pc = s.pc + 2 ∧ s.frameMem t

/-- 43_index_memory.md, LD [I], Vx (`I` not modified is decision D14): register `k` at `I + k` for `k` in `0 .. X`; every
other byte and `I` unchanged. -/
def Obligations.DumpStoresRegisters : Prop :=
  ∀ (x : Reg) (s : State), s.cfg.wf = true → ∃ t, exec (.ldMemVx x) s = .next t ∧
    (∀ k : Reg, k ≤ x → t.readByte (s.dataAddr k.val) = s.readV k) ∧
    (∀ a, (∀ k : Reg, k ≤ x → a % s.cfg.memSize ≠ s.dataAddr k.val % s.cfg.memSize) → t.readByte a = s.readByte a) ∧
    t.pc = s.pc + 2 ∧ s.frameMem t

/-- 43_index_memory.md, LD Vx, [I] (`I` not modified is decision D14): the byte at `I + k` into register `k` for `k` in
`0 .. X`; registers above `X` unchanged. -/
def Obligations.LoadFillsRegisters : Prop :=
  ∀ (x : Reg) (s : State), ∃ t, exec (.ldVxMem x) s = .next t ∧
    (∀ k : Reg, k ≤ x → t.readV k = s.readByte (s.dataAddr k.val)) ∧
    s.sameRegsBut t (fun k => k ≤ x) ∧ t.pc = s.pc + 2 ∧ s.frameRegs t

/-- 43_index_memory.md: the load is the "inverse of dump" (with decision D14): after a dump of `V[0..X]`, a load of
`V[0..X]` from the same `I` and the same memory gives the dumped registers back, whatever they hold in between. -/
def Obligations.LoadUndoesDump : Prop :=
  ∀ (x : Reg) (s t u : State), s.cfg.wf = true → exec (.ldMemVx x) s = .next t → u.cfg = t.cfg → u.mem = t.mem →
    u.i = t.i → ∃ w, exec (.ldVxMem x) u = .next w ∧ ∀ k : Reg, k ≤ x → w.readV k = s.readV k

/-! ### Timers and keypad -/

/-- 44_timer_input.md, SKP and SKNP (the low nibble is decision D16): skip if the key `V[X] & 0x0F` is held, or not. -/
def Obligations.KeySkips : Prop :=
  ∀ (x k : Reg) (s : State), k.val = (s.readV x &&& 0x0F).toNat →
    (∃ t, exec (.skp x) s = .next t ∧ t.pc = (if s.held k = true then s.pc + 4 else s.pc + 2) ∧ s.framePc t) ∧
    (∃ t, exec (.sknp x) s = .next t ∧ t.pc = (if s.held k = true then s.pc + 2 else s.pc + 4) ∧ s.framePc t)

/-- 44_timer_input.md, LD Vx, K (the lowest held key is decision D15): with a key held, `V[X]` is the smallest such key and
`pc <- next`; with none held nothing changes and `pc` stays. -/
def Obligations.KeyWaitStoresLowestHeldKey : Prop :=
  ∀ (x : Reg) (s : State),
    (∀ k : Reg, s.held k = true → (∀ j < k, s.held j = false) → ∃ t, exec (.ldVxK x) s = .next t ∧
      (t.readV x).toNat = k.val ∧ t.pc = s.pc + 2 ∧ s.sameRegsBut t (· = x) ∧ s.frameRegs t) ∧
    ((∀ k, s.held k = false) → exec (.ldVxK x) s = .next s)

/-- 44_timer_input.md, LD Vx, DT, LD DT, Vx and LD ST, Vx (R212, R214, R215), with the tick of 40_cycle.md section 2 (R127, an
inference the spec marks as its own): `V[X] <- DT` as it is before the tick; `DT <- V[X]`; `ST <- V[X]`;
`pc <- next`. The tick of the same cycle then counts the new value down: with `V[X] = 0` the timer ends at 0 (and no tone),
else at `V[X] - 1`, and the tone is raised in the loading cycle exactly when `V[X] = 1`. -/
def Obligations.TimerInstructions : Prop :=
  ∀ (x : Reg) (s : State),
    (∃ t, exec (.ldVxDt x) s = .next t ∧ t.readV x = s.dt ∧ t.pc = s.pc + 2 ∧ s.sameRegsBut t (· = x) ∧ s.frameRegs t) ∧
    (∃ t, exec (.ldDtVx x) s = .next t ∧ t.dt = s.readV x ∧ t.st = s.st ∧ t.pc = s.pc + 2 ∧ s.frameTimers t ∧
      t.tick.dt.toNat = (s.readV x).toNat - 1) ∧
    (∃ t, exec (.ldStVx x) s = .next t ∧ t.st = s.readV x ∧ t.dt = s.dt ∧ t.pc = s.pc + 2 ∧ s.frameTimers t ∧
      t.tick.st.toNat = (s.readV x).toNat - 1 ∧ (t.tick.tone = true ↔ (s.readV x).toNat = 1))

/-- R35: the input table is "written only by the external input collaborator; read-only from the engine's perspective": no
cycle changes it, and no host operation but set_key and the reset. -/
def Obligations.KeysChangeOnlyByHost : Prop :=
  (∀ s t : State, step s = .next t → t.key = s.key) ∧
  (∀ (s t : State) (m : HostOp) (r : Reply), (∀ k b, m ≠ .setKey k b) → m ≠ .initialise →
    hostStep m (.live s) = .next (.live t, r) → t.key = s.key)

/-! ### Display -/

/-- R230: every pixel 0, `DIRTY <- 1`, `pc <- next`; `VF` is not touched. -/
def Obligations.ClearBlanksTheDisplay : Prop :=
  ∀ s : State, ∃ t, exec .cls s = .next t ∧ (∀ r c, t.disp.pixel r c = false) ∧ t.dirty = true ∧ t.pc = s.pc + 2 ∧
    t.v = s.v ∧ s.frameDisplay t

/-- 45_display.md, DRW (operand capture and bit order are decision D18, `N = 0` decision D17): every pixel of the display a
1 bit of the sprite lands on is inverted and no other changes; `VF` is 1 if one of them was 1 before, else 0;
`DIRTY <- 1`. -/
def Obligations.DrawXorsTheSprite : Prop :=
  ∀ (x y : Reg) (n : Nibble) (s : State) (P : Nat → Nat → Prop), s.Inv →
    P = s.spriteCovers (s.readV x).toNat (s.readV y).toNat n.toNat →
    ∃ t, exec (.drw x y n) s = .next t ∧
      (∀ r c, P r c → r < s.cfg.dispH ∧ c < s.cfg.dispW ∧ t.disp.pixel r c = !s.disp.pixel r c) ∧
      (∀ r c, ¬ P r c → t.disp.pixel r c = s.disp.pixel r c) ∧
      ((∃ r c, P r c ∧ s.disp.pixel r c = true) → t.readV VF = 1) ∧
      ((∀ r c, P r c → s.disp.pixel r c = false) → t.readV VF = 0) ∧
      t.dirty = true ∧ t.pc = s.pc + 2 ∧ s.sameRegsBut t (· = VF) ∧ s.frameDisplay t

/-- 45_display.md section on properties ("two identical DRWs with unchanged `I`, memory and origin restore the display
exactly", marked as the spec's inference): and the second reports a collision iff some sprite bit found a 0 pixel before
the first. The origin is unchanged when neither operand is `VF`. -/
def Obligations.DrawTwiceRestoresTheDisplay : Prop :=
  ∀ (x y : Reg) (n : Nibble) (s t u : State), s.Inv → x ≠ VF → y ≠ VF → exec (.drw x y n) s = .next t →
    exec (.drw x y n) t = .next u → u.disp = s.disp ∧
    (u.readV VF = 1 ↔
      ∃ r c, s.spriteCovers (s.readV x).toNat (s.readV y).toNat n.toNat r c ∧ s.disp.pixel r c = false)

/-- R233: the display is "mutated only by the draw instruction and the clear instruction" (and by reset): "No other
instruction, no timer and no host operation writes a pixel". -/
def Obligations.PixelsChangeOnlyByClearAndDraw : Prop :=
  (∀ s t : State, step s = .next t → t.disp ≠ s.disp →
    decodeWord s.fetch = some .cls ∨ ∃ x y n, decodeWord s.fetch = some (.drw x y n)) ∧
  (∀ (s t : State) (m : HostOp) (r : Reply), (∀ b, m ≠ .runCycle b) → m ≠ .initialise →
    hostStep m (.live s) = .next (.live t, r) → t.disp = s.disp)

/-! ### Invariants and what cannot be told apart -/

/-- The reset state of every core that can be configured has the invariant, and exactly the parameters that meet the
constraints of R7 ("Constraints a model must check on a configuration") can be; the defaults can. -/
def Obligations.ResetHasCanonicalMemory : Prop :=
  (∀ p : Config.Params, p.wf = true → (State.resetOf p).Inv ∧ configure p = some (.uninitialized p)) ∧
  (∀ p : Config.Params, p.wf = false → configure p = none) ∧ State.reset.Inv

/-- Every step keeps the invariant: memory canonical, its addresses strictly rising and inside the array (R33, R61:
"implementations must never read/write outside the fixed memory array"), no cell listed that an unlisted address would read
as; `SP` in `0 .. STACK_DEPTH` and the stack's length (R26: "push/pop must stay within capacity"); the display's shape
(R34). The parameters never change (R37). -/
def Obligations.StepKeepsCanonicalMemory : Prop :=
  ∀ s t : State, s.Inv → step s = .next t → t.Inv ∧ t.cfg = s.cfg

/-- Every session of host moves keeps the invariant (memory canonical, stack and display of their size), from any core of
admissible parameters never initialized, or any state that has it. -/
def Obligations.HostSessionKeepsCanonicalMemory : Prop :=
  ∀ (ms : List HostOp) (c d : Instance), c.Inv → hostRun ms c = .next d → d.Inv

/-- 10_state.md section 8: a program observes neither `DIRTY`, `TONE` nor `UNK*`, and `ST` only through the host's tone
signal: two states that differ only there step to states that differ only there. -/
def Obligations.HiddenStateDoesNotReachPrograms : Prop :=
  ∀ s s' t t' : State, s.visible = s'.visible → step s = .next t → step s' = .next t' → t.visible = t'.visible

/-- 10_state.md section 4 (the stack's representation is decision D5): "Entries above `SP` keep their old contents and are
never read": states that differ only there step to states that differ only there. -/
def Obligations.DeadStackEntriesAreNeverRead : Prop :=
  ∀ s s' t t' : State, s.sameLiveStack s' → step s = .next t → step s' = .next t' → t.sameLiveStack t'

/-- 10_state.md section 5 (decision D19): a `pc` kept in 16 bits is indistinguishable from one kept reduced
`mod MEM_SIZE`: states whose program addresses agree reduced step to states whose program addresses agree reduced, and
are otherwise equal (`UNK_PC`, which the host reads, is one of those addresses: log entry 17). -/
def Obligations.ReducedPcIsIndistinguishable : Prop :=
  ∀ s s' t t' : State, s.cfg.wf = true → s.sameReducedPc s' → step s = .next t → step s' = .next t' → t.sameReducedPc t'

/-! ### Encoding -/

/-- 30_encoding.md sections 1 and 3 (opcode numbers are decision D6): decoding the encoded bytes of ANY instruction, every
operand at every value, gives it back with the bytes after it. -/
def Obligations.DecodeInvertsEncode : Prop :=
  ∀ (i : Instr) (rest : List Byte), decode (encodeBytes i ++ rest) = .ok (i, rest) ∧ decodeWord (encode i) = some i

/-- 30_encoding.md section 3: a word that decodes is the encoding of what it decodes to: no bit of it is dropped. -/
def Obligations.EncodeInvertsDecode : Prop :=
  ∀ (op : Word) (i : Instr), decodeWord op = some i → encode i = op

/-- 30_encoding.md section 4 (decisions D6, D7, D9): the words that do not decode are exactly those of the table of unknown
opcodes. -/
def Obligations.UnknownWordsAreThoseListed : Prop :=
  ∀ op : Word, decodeWord op = none ↔ unknownOpcode op = true

/-- 95_test_vectors.md T-30.6 and the opcode map of 30_encoding.md section 3 (decision D6): a decoded word matches the row
of its instruction and no other row of the map; an unknown word matches none. -/
def Obligations.OpcodeMapRowsAreDisjoint : Prop :=
  ∀ op : Word, opcodeTable.filter (rowMatches op) =
    match decodeWord op with
    | some i => [i.row]
    | none => []

/-- Words written out from the opcode map, one at least for each of the sixteen families (the values of the top nibble),
decode to the instruction they stand for; three that differ from one of its instructions in sub-selector or fixed bits do
not decode (decisions D6, D7). -/
def Obligations.SampleWordsDecode : Prop :=
  (decodeWord 0x00E0 = some .cls ∧ decodeWord 0x00EE = some .ret ∧ decodeWord 0x1234 = some (.jp 0x234) ∧
    decodeWord 0x2210 = some (.call 0x210) ∧ decodeWord 0x3305 = some (.seImm 3 5) ∧
    decodeWord 0x4AC1 = some (.sneImm 10 0xC1) ∧ decodeWord 0x5120 = some (.seReg 1 2) ∧
    decodeWord 0x6A2C = some (.ldImm 10 0x2C) ∧ decodeWord 0x7120 = some (.addImm 1 0x20)) ∧
  (decodeWord 0x8F15 = some (.sub 15 1) ∧ decodeWord 0x8AB6 = some (.shr 10 11) ∧ decodeWord 0x9120 = some (.sneReg 1 2) ∧
    decodeWord 0xA2F0 = some (.ldI 0x2F0) ∧ decodeWord 0xBFFF = some (.jpV0 0xFFF) ∧
    decodeWord 0xC30F = some (.rnd 3 0x0F) ∧ decodeWord 0xD125 = some (.drw 1 2 5) ∧
    decodeWord 0xE4A1 = some (.sknp 4) ∧ decodeWord 0xFA65 = some (.ldVxMem 10)) ∧
  decodeWord 0xFA66 = none ∧ decodeWord 0x01E0 = none ∧ decodeWord 0x5121 = none

/-- The word placed for the host is the word the next cycle fetches, on a core that executes, and the placed word decodes
as the machine decodes it (log entries 10 and 16: the model's own convention). -/
def Obligations.PlacedWordIsFetchedNext : Prop :=
  ∀ (s : State) (w : Nat), s.cfg.wf = true → w < 65536 → (s.withFetchWord 16 w).fetch.toNat = w ∧ (s.withFetchWord 16 w).healthy ∧
    (s.withFetchWord 16 w).pc = s.pc ∧ decodeTableWord 16 w = decodeWord (BitVec.ofNat 16 w)

/-- 30_encoding.md section 5 (the syntax is decision D30): the line of an instruction assembles to that instruction. -/
def Obligations.AssemblingALineGivesItsInstruction : Prop :=
  ∀ i : Instr, assembleIns (lineOf i).1 (lineOf i).2 = .ok i

/-! ### Host operations -/

/-- 60_exceptions.md section 3 and 70_reset_and_hazards.md section 1: `initialize` gives every state element its reset
value, whatever the state was, and two in a row equal one; on a core never initialized too. That `draws`, the model's own
count of random bytes, goes on instead of being reset is the model's choice (log entry 2). -/
def Obligations.InitializeIsResetAndIdempotent : Prop :=
  (∀ s : State, s.initialise = { State.resetOf s.cfg with draws := s.draws } ∧ s.initialise.initialise = s.initialise ∧
    hostStep .initialise (.live s) = .next (.live s.initialise, .unit)) ∧
  ∀ p : Config.Params, hostStep .initialise (.uninitialized p) = .next (.live (State.resetOf p), .unit)

/-- R292: before the first `initialize` no other operation has a defined meaning: the core has no step. -/
def Obligations.UninitializedCoreHasNoMove : Prop :=
  ∀ (m : HostOp) (p : Config.Params), m ≠ .initialise → hostStep m (.uninitialized p) = .refused .uninitialized

/-- 60_exceptions.md section 3, load_program (details are decision D33): a sequence longer than `MEM_SIZE - PROG_START`
fails with no change; any other is copied to `PROG_START` upward and changes nothing else. -/
def Obligations.LoadProgramCopiesOrFails : Prop :=
  ∀ (s : State) (bytes : List Byte), s.cfg.wf = true →
    (s.cfg.memSize - s.cfg.progStart < bytes.length → s.loadProgram bytes = (.failure, s)) ∧
    (bytes.length ≤ s.cfg.memSize - s.cfg.progStart → ∃ t, s.loadProgram bytes = (.success, t) ∧
      (∀ k (h : k < bytes.length), t.readByte (s.cfg.progStart + k) = bytes[k]) ∧
      (∀ a, a < s.cfg.memSize → a < s.cfg.progStart ∨ s.cfg.progStart + bytes.length ≤ a → t.readByte a = s.readByte a) ∧
      t = { s with mem := t.mem })

/-- R263: for an index 0 to 15, `KEY[index] <- pressed ? 1 : 0`; nothing else changes. -/
def Obligations.SetKeyWritesOneKey : Prop :=
  ∀ (s : State) (index : Nat) (pressed : Bool) (h : index < 16), ∃ t, s.setKey index pressed = .next t ∧
    t.held ⟨index, h⟩ = pressed ∧ (∀ k : Reg, k.val ≠ index → t.held k = s.held k) ∧ t = { s with key := t.key }

/-- 60_exceptions.md section 3, the reads and the acknowledgement (decisions D21, D22, D23): display_snapshot, should_tone
and status return what they name and change nothing; display_ack clears `DIRTY` and nothing else. -/
def Obligations.HostReadsChangeNothing : Prop :=
  ∀ s : State,
    hostStep .displaySnapshot (.live s) = .next (.live s, .snapshot { pixels := s.disp, changed := s.dirty }) ∧
    hostStep .shouldTone (.live s) = .next (.live s, .tone s.tone) ∧
    hostStep .status (.live s) = .next (.live s,
      .status { fault := s.fault.code, unk := s.unk, unkWord := s.unkWord, unkPc := s.unkPc }) ∧
    hostStep .displayAck (.live s) = .next (.live { s with dirty := false }, .unit)
end

