-- ==== Sys2Proof/Laws/Decode.lean ====
section
/-! SUPPORT. Words and their fields as numbers (R91), the words the encoder builds as numbers (R92), and their fields. -/

namespace Sys2Proof

/-! ### Fields as numbers -/

theorem family_toNat (op : Word) : (family op).toNat = op.toNat / 4096 := by
  have := op.isLt
  simp only [family, BitVec.extractLsb'_toNat, Nat.shiftRight_eq_div_pow]
  omega

theorem fieldX_val (op : Word) : (fieldX op).val = op.toNat / 256 % 16 := by
  show (op.extractLsb' 8 4).toNat = _
  simp only [BitVec.extractLsb'_toNat, Nat.shiftRight_eq_div_pow]

theorem fieldY_val (op : Word) : (fieldY op).val = op.toNat / 16 % 16 := by
  show (op.extractLsb' 4 4).toNat = _
  simp only [BitVec.extractLsb'_toNat, Nat.shiftRight_eq_div_pow]

theorem fieldN_toNat (op : Word) : (fieldN op).toNat = op.toNat % 16 := by
  simp only [fieldN, BitVec.extractLsb'_toNat, Nat.shiftRight_eq_div_pow]
  omega

theorem fieldNN_toNat (op : Word) : (fieldNN op).toNat = op.toNat % 256 := by
  simp only [fieldNN, BitVec.extractLsb'_toNat, Nat.shiftRight_eq_div_pow]
  omega

theorem fieldNNN_toNat (op : Word) : (fieldNNN op).toNat = op.toNat % 4096 := by
  simp only [fieldNNN, BitVec.extractLsb'_toNat, Nat.shiftRight_eq_div_pow]
  omega

/-! ### Words as numbers -/

theorem append_toNat {m n : Nat} (a : BitVec m) (b : BitVec n) : (a ++ b).toNat = a.toNat * 2 ^ n + b.toNat := by
  rw [BitVec.toNat_append, ← Nat.shiftLeft_add_eq_or_of_lt b.isLt, Nat.shiftLeft_eq]

theorem regBits_toNat (x : Reg) : (regBits x).toNat = x.val := Nat.mod_eq_of_lt x.isLt

theorem formatA_toNat (f : Nibble) (nnn : Addr12) : (formatA f nnn).toNat = f.toNat * 4096 + nnn.toNat :=
  append_toNat f nnn

theorem formatXK_toNat (f : Nibble) (x : Reg) (nn : Byte) :
    (formatXK f x nn).toNat = f.toNat * 4096 + x.val * 256 + nn.toNat := by
  have h : (formatXK f x nn).toNat = (f.toNat * 2 ^ 4 + (regBits x).toNat) * 2 ^ 8 + nn.toNat := by
    rw [← append_toNat f, ← append_toNat]; rfl
  rw [h, regBits_toNat]; omega

theorem formatXY_toNat (f : Nibble) (x y : Reg) (n : Nibble) :
    (formatXY f x y n).toNat = f.toNat * 4096 + x.val * 256 + y.val * 16 + n.toNat := by
  have h : (formatXY f x y n).toNat =
      ((f.toNat * 2 ^ 4 + (regBits x).toNat) * 2 ^ 4 + (regBits y).toNat) * 2 ^ 4 + n.toNat := by
    rw [← append_toNat f, ← append_toNat, ← append_toNat]; rfl
  rw [h, regBits_toNat, regBits_toNat]; omega

/-! ### The fields of the words the encoder builds -/

@[simp] theorem family_formatA (f : Nibble) (nnn : Addr12) : family (formatA f nnn) = f :=
  BitVec.eq_of_toNat_eq (by have := nnn.isLt; rw [family_toNat, formatA_toNat]; omega)

@[simp] theorem fieldNNN_formatA (f : Nibble) (nnn : Addr12) : fieldNNN (formatA f nnn) = nnn :=
  BitVec.eq_of_toNat_eq (by have := nnn.isLt; rw [fieldNNN_toNat, formatA_toNat]; omega)

@[simp] theorem family_formatXK (f : Nibble) (x : Reg) (nn : Byte) : family (formatXK f x nn) = f :=
  BitVec.eq_of_toNat_eq (by have := nn.isLt; have := x.isLt; rw [family_toNat, formatXK_toNat]; omega)

@[simp] theorem fieldX_formatXK (f : Nibble) (x : Reg) (nn : Byte) : fieldX (formatXK f x nn) = x :=
  Fin.ext (by have := nn.isLt; have := x.isLt; rw [fieldX_val, formatXK_toNat]; omega)

@[simp] theorem fieldNN_formatXK (f : Nibble) (x : Reg) (nn : Byte) : fieldNN (formatXK f x nn) = nn :=
  BitVec.eq_of_toNat_eq (by have := nn.isLt; rw [fieldNN_toNat, formatXK_toNat]; omega)

@[simp] theorem family_formatXY (f : Nibble) (x y : Reg) (n : Nibble) : family (formatXY f x y n) = f :=
  BitVec.eq_of_toNat_eq (by
    have := n.isLt; have := x.isLt; have := y.isLt; rw [family_toNat, formatXY_toNat]; omega)

@[simp] theorem fieldX_formatXY (f : Nibble) (x y : Reg) (n : Nibble) : fieldX (formatXY f x y n) = x :=
  Fin.ext (by have := n.isLt; have := x.isLt; have := y.isLt; rw [fieldX_val, formatXY_toNat]; omega)

@[simp] theorem fieldY_formatXY (f : Nibble) (x y : Reg) (n : Nibble) : fieldY (formatXY f x y n) = y :=
  Fin.ext (by have := n.isLt; have := x.isLt; have := y.isLt; rw [fieldY_val, formatXY_toNat]; omega)

@[simp] theorem fieldN_formatXY (f : Nibble) (x y : Reg) (n : Nibble) : fieldN (formatXY f x y n) = n :=
  BitVec.eq_of_toNat_eq (by
    have := n.isLt; have := x.isLt; have := y.isLt; rw [fieldN_toNat, formatXY_toNat]; omega)

/-! ### Bytes of a word -/

/-- A word read from the bytes it is stored as is that word (R62). -/
@[simp] theorem wordOfBytes_bytes (w : Word) : wordOfBytes (highByte w) (lowByte w) = w := by
  apply BitVec.eq_of_toNat_eq
  have := w.isLt
  simp only [wordOfBytes, highByte, lowByte, append_toNat, BitVec.extractLsb'_toNat, Nat.shiftRight_eq_div_pow]
  omega

end Sys2Proof
end

