-- ==== Sys2Proof/Laws/Memory.lean ====
section
/-! SUPPORT. The memory array: a read after a write, and the canonical form is kept by every operation. -/

namespace Sys2Proof.Machine

variable {p : Config.Params}

/-- A read after a write (R61): the byte written at its address, every other byte as before. It holds of every list,
canonical or not. -/
theorem Memory.get_set (m : Memory) (a : Nat) (b : Byte) (x : Nat) :
    (m.set p a b).get p x = if x = a then b else m.get p x := by
  induction m with
  | nil =>
    unfold Memory.set
    by_cases hx : x = a
    · subst hx; split <;> simp [Memory.get, *]
    · have hx' : a ≠ x := fun h => hx h.symm
      split <;> simp [Memory.get, hx']
  | cons c m ih =>
    unfold Memory.set
    by_cases hx : x = a
    · subst hx
      split
      · split <;> simp [Memory.get, ih]
      · next hc => split <;> simp [Memory.get, ih, hc]
    · have hx' : a ≠ x := fun h => hx h.symm
      split
      · next hc => subst hc; split <;> simp [Memory.get, ih, hx, hx']
      · next hc => split <;> simp [Memory.get, ih, hx, hx']

/-- A cell of memory after a write is an old one or the one written, which is not what its address reads as unlisted. -/
theorem Memory.mem_set {m : Memory} {a : Nat} {b : Byte} {c : Host.Cell} (h : c ∈ m.set p a b) :
    c ∈ m ∨ (c = (a, b) ∧ b ≠ Memory.blank p a) := by
  induction m with
  | nil =>
    unfold Memory.set at h
    split at h <;> simp_all
  | cons d m ih =>
    unfold Memory.set at h
    split at h
    · split at h
      · exact (ih h).imp_left (List.mem_cons_of_mem _)
      · next hb => exact (List.mem_cons.1 h).elim (fun e => .inr ⟨e, hb⟩) (fun hc => .inl (List.mem_cons_of_mem _ hc))
    · split at h
      · next hb => exact (List.mem_cons.1 h).elim (fun e => .inr ⟨e, hb.2⟩) .inl
      · exact (List.mem_cons.1 h).elim (fun e => .inl (by simp [e])) (fun hc => (ih hc).imp_left (List.mem_cons_of_mem _))

/-- A write keeps the addresses strictly rising. -/
theorem Memory.pairwise_set {m : Memory} (hm : m.Pairwise (fun c d => c.1 < d.1)) (a : Nat) (b : Byte) :
    (m.set p a b).Pairwise (fun c d => c.1 < d.1) := by
  induction m with
  | nil => unfold Memory.set; split <;> simp
  | cons c m ih =>
    have hc := List.pairwise_cons.1 hm
    unfold Memory.set
    split
    · next h =>
      split
      · exact ih hc.2
      · exact List.pairwise_cons.2 ⟨fun d hd => h ▸ hc.1 d hd, hc.2⟩
    · next hne =>
      split
      · next h =>
        refine List.pairwise_cons.2 ⟨fun d hd => ?_, hm⟩
        rcases List.mem_cons.1 hd with rfl | hd
        · exact h.1
        · exact Nat.lt_trans h.1 (hc.1 d hd)
      · next h =>
        refine List.pairwise_cons.2 ⟨fun d hd => ?_, ih hc.2⟩
        rcases Memory.mem_set hd with hd | ⟨rfl, hb⟩
        · exact hc.1 d hd
        · exact Nat.lt_of_le_of_ne (Nat.le_of_not_lt fun hlt => h ⟨hlt, hb⟩) hne

/-- A write inside the array keeps the canonical form. -/
theorem Memory.wf_set {m : Memory} (hm : m.wf p) {a : Nat} (ha : a < p.memSize) (b : Byte) : (m.set p a b).wf p := by
  refine ⟨Memory.pairwise_set hm.1 a b, fun c hc => ?_⟩
  rcases Memory.mem_set hc with hc | ⟨rfl, hb⟩
  · exact hm.2 c hc
  · exact ⟨ha, hb⟩

/-- The empty list, the memory of the reset state, is canonical. -/
theorem Memory.wf_nil : Memory.wf p [] := ⟨.nil, by simp⟩

/-- Writing a run of bytes inside the array keeps the canonical form. -/
theorem Memory.wf_setAll {m : Memory} (hm : m.wf p) {a : Nat} {bs : List Byte} (h : a + bs.length ≤ p.memSize) :
    (m.setAll p a bs).wf p := by
  induction bs generalizing m a with
  | nil => exact hm
  | cons b bs ih =>
    simp only [List.length_cons] at h
    exact ih (Memory.wf_set hm (by omega) b) (by omega)

/-- Reading after a run of bytes has been written: the byte of the run at its address, every other byte as before. -/
theorem Memory.get_setAll (m : Memory) (a : Nat) (bs : List Byte) (x : Nat) :
    (m.setAll p a bs).get p x = if a ≤ x ∧ x < a + bs.length then bs.getD (x - a) 0 else m.get p x := by
  induction bs generalizing m a with
  | nil =>
    have : ¬ (a ≤ x ∧ x < a + ([] : List Byte).length) := by simp
    rw [if_neg this]; rfl
  | cons b bs ih =>
    rw [Memory.setAll, ih, Memory.get_set]
    simp only [List.length_cons]
    by_cases hx : x = a
    · subst hx; simp
    · by_cases h : a ≤ x ∧ x < a + (bs.length + 1)
      · have : x - a = (x - (a + 1)) + 1 := by omega
        rw [if_pos (by omega), if_pos h, this]
        rfl
      · rw [if_neg (by omega), if_neg h, if_neg hx]

end Sys2Proof.Machine
end

