-- ==== Sys2Proof/Laws/State.lean ====
section
/-! SUPPORT. One lemma per field per update of State, each true by rfl, so that no later proof unfolds a record update;
then what the reads (`readV`, `readByte`, `held`, `dataAddr`, `fetch`, `entry`) see of an update that does not touch them, and the
composite updates as the updates they are made of. -/

namespace Sys2Proof.Machine

variable (s : State)

/-! ### writeV -/

@[simp] theorem State.writeV_cfg (x : Reg) (b : Byte) : (s.writeV x b).cfg = s.cfg := rfl
@[simp] theorem State.writeV_v (x : Reg) (b : Byte) : (s.writeV x b).v = s.v.set x b := rfl
@[simp] theorem State.writeV_i (x : Reg) (b : Byte) : (s.writeV x b).i = s.i := rfl
@[simp] theorem State.writeV_pc (x : Reg) (b : Byte) : (s.writeV x b).pc = s.pc := rfl
@[simp] theorem State.writeV_stack (x : Reg) (b : Byte) : (s.writeV x b).stack = s.stack := rfl
@[simp] theorem State.writeV_sp (x : Reg) (b : Byte) : (s.writeV x b).sp = s.sp := rfl
@[simp] theorem State.writeV_dt (x : Reg) (b : Byte) : (s.writeV x b).dt = s.dt := rfl
@[simp] theorem State.writeV_st (x : Reg) (b : Byte) : (s.writeV x b).st = s.st := rfl
@[simp] theorem State.writeV_mem (x : Reg) (b : Byte) : (s.writeV x b).mem = s.mem := rfl
@[simp] theorem State.writeV_disp (x : Reg) (b : Byte) : (s.writeV x b).disp = s.disp := rfl
@[simp] theorem State.writeV_key (x : Reg) (b : Byte) : (s.writeV x b).key = s.key := rfl
@[simp] theorem State.writeV_dirty (x : Reg) (b : Byte) : (s.writeV x b).dirty = s.dirty := rfl
@[simp] theorem State.writeV_tone (x : Reg) (b : Byte) : (s.writeV x b).tone = s.tone := rfl
@[simp] theorem State.writeV_fault (x : Reg) (b : Byte) : (s.writeV x b).fault = s.fault := rfl
@[simp] theorem State.writeV_unk (x : Reg) (b : Byte) : (s.writeV x b).unk = s.unk := rfl
@[simp] theorem State.writeV_unkWord (x : Reg) (b : Byte) : (s.writeV x b).unkWord = s.unkWord := rfl
@[simp] theorem State.writeV_unkPc (x : Reg) (b : Byte) : (s.writeV x b).unkPc = s.unkPc := rfl
@[simp] theorem State.writeV_rand (x : Reg) (b : Byte) : (s.writeV x b).rand = s.rand := rfl
@[simp] theorem State.writeV_draws (x : Reg) (b : Byte) : (s.writeV x b).draws = s.draws := rfl

/-! ### setPc -/

@[simp] theorem State.setPc_cfg (a : Word) : (s.setPc a).cfg = s.cfg := rfl
@[simp] theorem State.setPc_v (a : Word) : (s.setPc a).v = s.v := rfl
@[simp] theorem State.setPc_i (a : Word) : (s.setPc a).i = s.i := rfl
@[simp] theorem State.setPc_pc (a : Word) : (s.setPc a).pc = a := rfl
@[simp] theorem State.setPc_stack (a : Word) : (s.setPc a).stack = s.stack := rfl
@[simp] theorem State.setPc_sp (a : Word) : (s.setPc a).sp = s.sp := rfl
@[simp] theorem State.setPc_dt (a : Word) : (s.setPc a).dt = s.dt := rfl
@[simp] theorem State.setPc_st (a : Word) : (s.setPc a).st = s.st := rfl
@[simp] theorem State.setPc_mem (a : Word) : (s.setPc a).mem = s.mem := rfl
@[simp] theorem State.setPc_disp (a : Word) : (s.setPc a).disp = s.disp := rfl
@[simp] theorem State.setPc_key (a : Word) : (s.setPc a).key = s.key := rfl
@[simp] theorem State.setPc_dirty (a : Word) : (s.setPc a).dirty = s.dirty := rfl
@[simp] theorem State.setPc_tone (a : Word) : (s.setPc a).tone = s.tone := rfl
@[simp] theorem State.setPc_fault (a : Word) : (s.setPc a).fault = s.fault := rfl
@[simp] theorem State.setPc_unk (a : Word) : (s.setPc a).unk = s.unk := rfl
@[simp] theorem State.setPc_unkWord (a : Word) : (s.setPc a).unkWord = s.unkWord := rfl
@[simp] theorem State.setPc_unkPc (a : Word) : (s.setPc a).unkPc = s.unkPc := rfl
@[simp] theorem State.setPc_rand (a : Word) : (s.setPc a).rand = s.rand := rfl
@[simp] theorem State.setPc_draws (a : Word) : (s.setPc a).draws = s.draws := rfl

/-! ### setI -/

@[simp] theorem State.setI_cfg (a : Word) : (s.setI a).cfg = s.cfg := rfl
@[simp] theorem State.setI_v (a : Word) : (s.setI a).v = s.v := rfl
@[simp] theorem State.setI_i (a : Word) : (s.setI a).i = a := rfl
@[simp] theorem State.setI_pc (a : Word) : (s.setI a).pc = s.pc := rfl
@[simp] theorem State.setI_stack (a : Word) : (s.setI a).stack = s.stack := rfl
@[simp] theorem State.setI_sp (a : Word) : (s.setI a).sp = s.sp := rfl
@[simp] theorem State.setI_dt (a : Word) : (s.setI a).dt = s.dt := rfl
@[simp] theorem State.setI_st (a : Word) : (s.setI a).st = s.st := rfl
@[simp] theorem State.setI_mem (a : Word) : (s.setI a).mem = s.mem := rfl
@[simp] theorem State.setI_disp (a : Word) : (s.setI a).disp = s.disp := rfl
@[simp] theorem State.setI_key (a : Word) : (s.setI a).key = s.key := rfl
@[simp] theorem State.setI_dirty (a : Word) : (s.setI a).dirty = s.dirty := rfl
@[simp] theorem State.setI_tone (a : Word) : (s.setI a).tone = s.tone := rfl
@[simp] theorem State.setI_fault (a : Word) : (s.setI a).fault = s.fault := rfl
@[simp] theorem State.setI_unk (a : Word) : (s.setI a).unk = s.unk := rfl
@[simp] theorem State.setI_unkWord (a : Word) : (s.setI a).unkWord = s.unkWord := rfl
@[simp] theorem State.setI_unkPc (a : Word) : (s.setI a).unkPc = s.unkPc := rfl
@[simp] theorem State.setI_rand (a : Word) : (s.setI a).rand = s.rand := rfl
@[simp] theorem State.setI_draws (a : Word) : (s.setI a).draws = s.draws := rfl

/-! ### writeByte -/

@[simp] theorem State.writeByte_cfg (a : Nat) (b : Byte) : (s.writeByte a b).cfg = s.cfg := rfl
@[simp] theorem State.writeByte_v (a : Nat) (b : Byte) : (s.writeByte a b).v = s.v := rfl
@[simp] theorem State.writeByte_i (a : Nat) (b : Byte) : (s.writeByte a b).i = s.i := rfl
@[simp] theorem State.writeByte_pc (a : Nat) (b : Byte) : (s.writeByte a b).pc = s.pc := rfl
@[simp] theorem State.writeByte_stack (a : Nat) (b : Byte) : (s.writeByte a b).stack = s.stack := rfl
@[simp] theorem State.writeByte_sp (a : Nat) (b : Byte) : (s.writeByte a b).sp = s.sp := rfl
@[simp] theorem State.writeByte_dt (a : Nat) (b : Byte) : (s.writeByte a b).dt = s.dt := rfl
@[simp] theorem State.writeByte_st (a : Nat) (b : Byte) : (s.writeByte a b).st = s.st := rfl
@[simp] theorem State.writeByte_mem (a : Nat) (b : Byte) : (s.writeByte a b).mem = s.mem.set s.cfg (a % s.cfg.memSize) b := rfl
@[simp] theorem State.writeByte_disp (a : Nat) (b : Byte) : (s.writeByte a b).disp = s.disp := rfl
@[simp] theorem State.writeByte_key (a : Nat) (b : Byte) : (s.writeByte a b).key = s.key := rfl
@[simp] theorem State.writeByte_dirty (a : Nat) (b : Byte) : (s.writeByte a b).dirty = s.dirty := rfl
@[simp] theorem State.writeByte_tone (a : Nat) (b : Byte) : (s.writeByte a b).tone = s.tone := rfl
@[simp] theorem State.writeByte_fault (a : Nat) (b : Byte) : (s.writeByte a b).fault = s.fault := rfl
@[simp] theorem State.writeByte_unk (a : Nat) (b : Byte) : (s.writeByte a b).unk = s.unk := rfl
@[simp] theorem State.writeByte_unkWord (a : Nat) (b : Byte) : (s.writeByte a b).unkWord = s.unkWord := rfl
@[simp] theorem State.writeByte_unkPc (a : Nat) (b : Byte) : (s.writeByte a b).unkPc = s.unkPc := rfl
@[simp] theorem State.writeByte_rand (a : Nat) (b : Byte) : (s.writeByte a b).rand = s.rand := rfl
@[simp] theorem State.writeByte_draws (a : Nat) (b : Byte) : (s.writeByte a b).draws = s.draws := rfl

/-! ### setDt -/

@[simp] theorem State.setDt_cfg (b : Byte) : (s.setDt b).cfg = s.cfg := rfl
@[simp] theorem State.setDt_v (b : Byte) : (s.setDt b).v = s.v := rfl
@[simp] theorem State.setDt_i (b : Byte) : (s.setDt b).i = s.i := rfl
@[simp] theorem State.setDt_pc (b : Byte) : (s.setDt b).pc = s.pc := rfl
@[simp] theorem State.setDt_stack (b : Byte) : (s.setDt b).stack = s.stack := rfl
@[simp] theorem State.setDt_sp (b : Byte) : (s.setDt b).sp = s.sp := rfl
@[simp] theorem State.setDt_dt (b : Byte) : (s.setDt b).dt = b := rfl
@[simp] theorem State.setDt_st (b : Byte) : (s.setDt b).st = s.st := rfl
@[simp] theorem State.setDt_mem (b : Byte) : (s.setDt b).mem = s.mem := rfl
@[simp] theorem State.setDt_disp (b : Byte) : (s.setDt b).disp = s.disp := rfl
@[simp] theorem State.setDt_key (b : Byte) : (s.setDt b).key = s.key := rfl
@[simp] theorem State.setDt_dirty (b : Byte) : (s.setDt b).dirty = s.dirty := rfl
@[simp] theorem State.setDt_tone (b : Byte) : (s.setDt b).tone = s.tone := rfl
@[simp] theorem State.setDt_fault (b : Byte) : (s.setDt b).fault = s.fault := rfl
@[simp] theorem State.setDt_unk (b : Byte) : (s.setDt b).unk = s.unk := rfl
@[simp] theorem State.setDt_unkWord (b : Byte) : (s.setDt b).unkWord = s.unkWord := rfl
@[simp] theorem State.setDt_unkPc (b : Byte) : (s.setDt b).unkPc = s.unkPc := rfl
@[simp] theorem State.setDt_rand (b : Byte) : (s.setDt b).rand = s.rand := rfl
@[simp] theorem State.setDt_draws (b : Byte) : (s.setDt b).draws = s.draws := rfl

/-! ### setSt -/

@[simp] theorem State.setSt_cfg (b : Byte) : (s.setSt b).cfg = s.cfg := rfl
@[simp] theorem State.setSt_v (b : Byte) : (s.setSt b).v = s.v := rfl
@[simp] theorem State.setSt_i (b : Byte) : (s.setSt b).i = s.i := rfl
@[simp] theorem State.setSt_pc (b : Byte) : (s.setSt b).pc = s.pc := rfl
@[simp] theorem State.setSt_stack (b : Byte) : (s.setSt b).stack = s.stack := rfl
@[simp] theorem State.setSt_sp (b : Byte) : (s.setSt b).sp = s.sp := rfl
@[simp] theorem State.setSt_dt (b : Byte) : (s.setSt b).dt = s.dt := rfl
@[simp] theorem State.setSt_st (b : Byte) : (s.setSt b).st = b := rfl
@[simp] theorem State.setSt_mem (b : Byte) : (s.setSt b).mem = s.mem := rfl
@[simp] theorem State.setSt_disp (b : Byte) : (s.setSt b).disp = s.disp := rfl
@[simp] theorem State.setSt_key (b : Byte) : (s.setSt b).key = s.key := rfl
@[simp] theorem State.setSt_dirty (b : Byte) : (s.setSt b).dirty = s.dirty := rfl
@[simp] theorem State.setSt_tone (b : Byte) : (s.setSt b).tone = s.tone := rfl
@[simp] theorem State.setSt_fault (b : Byte) : (s.setSt b).fault = s.fault := rfl
@[simp] theorem State.setSt_unk (b : Byte) : (s.setSt b).unk = s.unk := rfl
@[simp] theorem State.setSt_unkWord (b : Byte) : (s.setSt b).unkWord = s.unkWord := rfl
@[simp] theorem State.setSt_unkPc (b : Byte) : (s.setSt b).unkPc = s.unkPc := rfl
@[simp] theorem State.setSt_rand (b : Byte) : (s.setSt b).rand = s.rand := rfl
@[simp] theorem State.setSt_draws (b : Byte) : (s.setSt b).draws = s.draws := rfl

/-! ### tick -/

@[simp] theorem State.tick_cfg : s.tick.cfg = s.cfg := rfl
@[simp] theorem State.tick_v : s.tick.v = s.v := rfl
@[simp] theorem State.tick_i : s.tick.i = s.i := rfl
@[simp] theorem State.tick_pc : s.tick.pc = s.pc := rfl
@[simp] theorem State.tick_stack : s.tick.stack = s.stack := rfl
@[simp] theorem State.tick_sp : s.tick.sp = s.sp := rfl
@[simp] theorem State.tick_dt : s.tick.dt = countDown s.dt := rfl
@[simp] theorem State.tick_st : s.tick.st = countDown s.st := rfl
@[simp] theorem State.tick_mem : s.tick.mem = s.mem := rfl
@[simp] theorem State.tick_disp : s.tick.disp = s.disp := rfl
@[simp] theorem State.tick_key : s.tick.key = s.key := rfl
@[simp] theorem State.tick_dirty : s.tick.dirty = s.dirty := rfl
@[simp] theorem State.tick_tone : s.tick.tone = (s.st = 1 : Bool) := rfl
@[simp] theorem State.tick_fault : s.tick.fault = s.fault := rfl
@[simp] theorem State.tick_unk : s.tick.unk = s.unk := rfl
@[simp] theorem State.tick_unkWord : s.tick.unkWord = s.unkWord := rfl
@[simp] theorem State.tick_unkPc : s.tick.unkPc = s.unkPc := rfl
@[simp] theorem State.tick_rand : s.tick.rand = s.rand := rfl
@[simp] theorem State.tick_draws : s.tick.draws = s.draws := rfl

/-! ### present -/

@[simp] theorem State.present_cfg (d : Display) : (s.present d).cfg = s.cfg := rfl
@[simp] theorem State.present_v (d : Display) : (s.present d).v = s.v := rfl
@[simp] theorem State.present_i (d : Display) : (s.present d).i = s.i := rfl
@[simp] theorem State.present_pc (d : Display) : (s.present d).pc = s.pc := rfl
@[simp] theorem State.present_stack (d : Display) : (s.present d).stack = s.stack := rfl
@[simp] theorem State.present_sp (d : Display) : (s.present d).sp = s.sp := rfl
@[simp] theorem State.present_dt (d : Display) : (s.present d).dt = s.dt := rfl
@[simp] theorem State.present_st (d : Display) : (s.present d).st = s.st := rfl
@[simp] theorem State.present_mem (d : Display) : (s.present d).mem = s.mem := rfl
@[simp] theorem State.present_disp (d : Display) : (s.present d).disp = d := rfl
@[simp] theorem State.present_key (d : Display) : (s.present d).key = s.key := rfl
@[simp] theorem State.present_dirty (d : Display) : (s.present d).dirty = true := rfl
@[simp] theorem State.present_tone (d : Display) : (s.present d).tone = s.tone := rfl
@[simp] theorem State.present_fault (d : Display) : (s.present d).fault = s.fault := rfl
@[simp] theorem State.present_unk (d : Display) : (s.present d).unk = s.unk := rfl
@[simp] theorem State.present_unkWord (d : Display) : (s.present d).unkWord = s.unkWord := rfl
@[simp] theorem State.present_unkPc (d : Display) : (s.present d).unkPc = s.unkPc := rfl
@[simp] theorem State.present_rand (d : Display) : (s.present d).rand = s.rand := rfl
@[simp] theorem State.present_draws (d : Display) : (s.present d).draws = s.draws := rfl

/-! ### raise -/

@[simp] theorem State.raise_cfg (f : FaultCode) : (s.raise f).cfg = s.cfg := rfl
@[simp] theorem State.raise_v (f : FaultCode) : (s.raise f).v = s.v := rfl
@[simp] theorem State.raise_i (f : FaultCode) : (s.raise f).i = s.i := rfl
@[simp] theorem State.raise_pc (f : FaultCode) : (s.raise f).pc = s.pc := rfl
@[simp] theorem State.raise_stack (f : FaultCode) : (s.raise f).stack = s.stack := rfl
@[simp] theorem State.raise_sp (f : FaultCode) : (s.raise f).sp = s.sp := rfl
@[simp] theorem State.raise_dt (f : FaultCode) : (s.raise f).dt = s.dt := rfl
@[simp] theorem State.raise_st (f : FaultCode) : (s.raise f).st = s.st := rfl
@[simp] theorem State.raise_mem (f : FaultCode) : (s.raise f).mem = s.mem := rfl
@[simp] theorem State.raise_disp (f : FaultCode) : (s.raise f).disp = s.disp := rfl
@[simp] theorem State.raise_key (f : FaultCode) : (s.raise f).key = s.key := rfl
@[simp] theorem State.raise_dirty (f : FaultCode) : (s.raise f).dirty = s.dirty := rfl
@[simp] theorem State.raise_tone (f : FaultCode) : (s.raise f).tone = false := rfl
@[simp] theorem State.raise_fault (f : FaultCode) : (s.raise f).fault = f := rfl
@[simp] theorem State.raise_unk (f : FaultCode) : (s.raise f).unk = s.unk := rfl
@[simp] theorem State.raise_unkWord (f : FaultCode) : (s.raise f).unkWord = s.unkWord := rfl
@[simp] theorem State.raise_unkPc (f : FaultCode) : (s.raise f).unkPc = s.unkPc := rfl
@[simp] theorem State.raise_rand (f : FaultCode) : (s.raise f).rand = s.rand := rfl
@[simp] theorem State.raise_draws (f : FaultCode) : (s.raise f).draws = s.draws := rfl

/-! ### faultedCycle -/

@[simp] theorem State.faultedCycle_cfg : s.faultedCycle.cfg = s.cfg := rfl
@[simp] theorem State.faultedCycle_v : s.faultedCycle.v = s.v := rfl
@[simp] theorem State.faultedCycle_i : s.faultedCycle.i = s.i := rfl
@[simp] theorem State.faultedCycle_pc : s.faultedCycle.pc = s.pc := rfl
@[simp] theorem State.faultedCycle_stack : s.faultedCycle.stack = s.stack := rfl
@[simp] theorem State.faultedCycle_sp : s.faultedCycle.sp = s.sp := rfl
@[simp] theorem State.faultedCycle_dt : s.faultedCycle.dt = s.dt := rfl
@[simp] theorem State.faultedCycle_st : s.faultedCycle.st = s.st := rfl
@[simp] theorem State.faultedCycle_mem : s.faultedCycle.mem = s.mem := rfl
@[simp] theorem State.faultedCycle_disp : s.faultedCycle.disp = s.disp := rfl
@[simp] theorem State.faultedCycle_key : s.faultedCycle.key = s.key := rfl
@[simp] theorem State.faultedCycle_dirty : s.faultedCycle.dirty = s.dirty := rfl
@[simp] theorem State.faultedCycle_tone : s.faultedCycle.tone = false := rfl
@[simp] theorem State.faultedCycle_fault : s.faultedCycle.fault = s.fault := rfl
@[simp] theorem State.faultedCycle_unk : s.faultedCycle.unk = s.unk := rfl
@[simp] theorem State.faultedCycle_unkWord : s.faultedCycle.unkWord = s.unkWord := rfl
@[simp] theorem State.faultedCycle_unkPc : s.faultedCycle.unkPc = s.unkPc := rfl
@[simp] theorem State.faultedCycle_rand : s.faultedCycle.rand = s.rand := rfl
@[simp] theorem State.faultedCycle_draws : s.faultedCycle.draws = s.draws := rfl

/-! ### recordUnknown -/

@[simp] theorem State.recordUnknown_cfg (op : Word) : (s.recordUnknown op).cfg = s.cfg := rfl
@[simp] theorem State.recordUnknown_v (op : Word) : (s.recordUnknown op).v = s.v := rfl
@[simp] theorem State.recordUnknown_i (op : Word) : (s.recordUnknown op).i = s.i := rfl
@[simp] theorem State.recordUnknown_pc (op : Word) : (s.recordUnknown op).pc = s.pc + 2 := rfl
@[simp] theorem State.recordUnknown_stack (op : Word) : (s.recordUnknown op).stack = s.stack := rfl
@[simp] theorem State.recordUnknown_sp (op : Word) : (s.recordUnknown op).sp = s.sp := rfl
@[simp] theorem State.recordUnknown_dt (op : Word) : (s.recordUnknown op).dt = s.dt := rfl
@[simp] theorem State.recordUnknown_st (op : Word) : (s.recordUnknown op).st = s.st := rfl
@[simp] theorem State.recordUnknown_mem (op : Word) : (s.recordUnknown op).mem = s.mem := rfl
@[simp] theorem State.recordUnknown_disp (op : Word) : (s.recordUnknown op).disp = s.disp := rfl
@[simp] theorem State.recordUnknown_key (op : Word) : (s.recordUnknown op).key = s.key := rfl
@[simp] theorem State.recordUnknown_dirty (op : Word) : (s.recordUnknown op).dirty = s.dirty := rfl
@[simp] theorem State.recordUnknown_tone (op : Word) : (s.recordUnknown op).tone = s.tone := rfl
@[simp] theorem State.recordUnknown_fault (op : Word) : (s.recordUnknown op).fault = s.fault := rfl
@[simp] theorem State.recordUnknown_unk (op : Word) : (s.recordUnknown op).unk = true := rfl
@[simp] theorem State.recordUnknown_unkWord (op : Word) : (s.recordUnknown op).unkWord = op := rfl
@[simp] theorem State.recordUnknown_unkPc (op : Word) : (s.recordUnknown op).unkPc = s.pc := rfl
@[simp] theorem State.recordUnknown_rand (op : Word) : (s.recordUnknown op).rand = s.rand := rfl
@[simp] theorem State.recordUnknown_draws (op : Word) : (s.recordUnknown op).draws = s.draws := rfl

/-! ### supplyRand -/

@[simp] theorem State.supplyRand_cfg (b : Byte) : (s.supplyRand b).cfg = s.cfg := rfl
@[simp] theorem State.supplyRand_v (b : Byte) : (s.supplyRand b).v = s.v := rfl
@[simp] theorem State.supplyRand_i (b : Byte) : (s.supplyRand b).i = s.i := rfl
@[simp] theorem State.supplyRand_pc (b : Byte) : (s.supplyRand b).pc = s.pc := rfl
@[simp] theorem State.supplyRand_stack (b : Byte) : (s.supplyRand b).stack = s.stack := rfl
@[simp] theorem State.supplyRand_sp (b : Byte) : (s.supplyRand b).sp = s.sp := rfl
@[simp] theorem State.supplyRand_dt (b : Byte) : (s.supplyRand b).dt = s.dt := rfl
@[simp] theorem State.supplyRand_st (b : Byte) : (s.supplyRand b).st = s.st := rfl
@[simp] theorem State.supplyRand_mem (b : Byte) : (s.supplyRand b).mem = s.mem := rfl
@[simp] theorem State.supplyRand_disp (b : Byte) : (s.supplyRand b).disp = s.disp := rfl
@[simp] theorem State.supplyRand_key (b : Byte) : (s.supplyRand b).key = s.key := rfl
@[simp] theorem State.supplyRand_dirty (b : Byte) : (s.supplyRand b).dirty = s.dirty := rfl
@[simp] theorem State.supplyRand_tone (b : Byte) : (s.supplyRand b).tone = s.tone := rfl
@[simp] theorem State.supplyRand_fault (b : Byte) : (s.supplyRand b).fault = s.fault := rfl
@[simp] theorem State.supplyRand_unk (b : Byte) : (s.supplyRand b).unk = s.unk := rfl
@[simp] theorem State.supplyRand_unkWord (b : Byte) : (s.supplyRand b).unkWord = s.unkWord := rfl
@[simp] theorem State.supplyRand_unkPc (b : Byte) : (s.supplyRand b).unkPc = s.unkPc := rfl
@[simp] theorem State.supplyRand_rand (b : Byte) : (s.supplyRand b).rand = b := rfl
@[simp] theorem State.supplyRand_draws (b : Byte) : (s.supplyRand b).draws = s.draws := rfl

/-! ### countDraw -/

@[simp] theorem State.countDraw_cfg : s.countDraw.cfg = s.cfg := rfl
@[simp] theorem State.countDraw_v : s.countDraw.v = s.v := rfl
@[simp] theorem State.countDraw_i : s.countDraw.i = s.i := rfl
@[simp] theorem State.countDraw_pc : s.countDraw.pc = s.pc := rfl
@[simp] theorem State.countDraw_stack : s.countDraw.stack = s.stack := rfl
@[simp] theorem State.countDraw_sp : s.countDraw.sp = s.sp := rfl
@[simp] theorem State.countDraw_dt : s.countDraw.dt = s.dt := rfl
@[simp] theorem State.countDraw_st : s.countDraw.st = s.st := rfl
@[simp] theorem State.countDraw_mem : s.countDraw.mem = s.mem := rfl
@[simp] theorem State.countDraw_disp : s.countDraw.disp = s.disp := rfl
@[simp] theorem State.countDraw_key : s.countDraw.key = s.key := rfl
@[simp] theorem State.countDraw_dirty : s.countDraw.dirty = s.dirty := rfl
@[simp] theorem State.countDraw_tone : s.countDraw.tone = s.tone := rfl
@[simp] theorem State.countDraw_fault : s.countDraw.fault = s.fault := rfl
@[simp] theorem State.countDraw_unk : s.countDraw.unk = s.unk := rfl
@[simp] theorem State.countDraw_unkWord : s.countDraw.unkWord = s.unkWord := rfl
@[simp] theorem State.countDraw_unkPc : s.countDraw.unkPc = s.unkPc := rfl
@[simp] theorem State.countDraw_rand : s.countDraw.rand = s.rand := rfl
@[simp] theorem State.countDraw_draws : s.countDraw.draws = s.draws + 1 := rfl

/-! ### Reads of an update that does not touch what they read -/

@[simp] theorem State.readByte_writeV (x : Reg) (b : Byte) (c : Nat) : (s.writeV x b).readByte c = s.readByte c := rfl
@[simp] theorem State.held_writeV (x : Reg) (b : Byte) (k : Reg) : (s.writeV x b).held k = s.held k := rfl
@[simp] theorem State.dataAddr_writeV (x : Reg) (b : Byte) (k : Nat) : (s.writeV x b).dataAddr k = s.dataAddr k := rfl
@[simp] theorem State.fetch_writeV (x : Reg) (b : Byte) : (s.writeV x b).fetch = s.fetch := rfl
@[simp] theorem State.readV_setPc (a : Word) (y : Reg) : (s.setPc a).readV y = s.readV y := rfl
@[simp] theorem State.readByte_setPc (a : Word) (c : Nat) : (s.setPc a).readByte c = s.readByte c := rfl
@[simp] theorem State.held_setPc (a : Word) (k : Reg) : (s.setPc a).held k = s.held k := rfl
@[simp] theorem State.dataAddr_setPc (a : Word) (k : Nat) : (s.setPc a).dataAddr k = s.dataAddr k := rfl
@[simp] theorem State.readV_setI (a : Word) (y : Reg) : (s.setI a).readV y = s.readV y := rfl
@[simp] theorem State.readByte_setI (a : Word) (c : Nat) : (s.setI a).readByte c = s.readByte c := rfl
@[simp] theorem State.held_setI (a : Word) (k : Reg) : (s.setI a).held k = s.held k := rfl
@[simp] theorem State.fetch_setI (a : Word) : (s.setI a).fetch = s.fetch := rfl
@[simp] theorem State.readV_writeByte (a : Nat) (b : Byte) (y : Reg) : (s.writeByte a b).readV y = s.readV y := rfl
@[simp] theorem State.held_writeByte (a : Nat) (b : Byte) (k : Reg) : (s.writeByte a b).held k = s.held k := rfl
@[simp] theorem State.dataAddr_writeByte (a : Nat) (b : Byte) (k : Nat) : (s.writeByte a b).dataAddr k = s.dataAddr k := rfl
@[simp] theorem State.readV_setDt (b : Byte) (y : Reg) : (s.setDt b).readV y = s.readV y := rfl
@[simp] theorem State.readByte_setDt (b : Byte) (c : Nat) : (s.setDt b).readByte c = s.readByte c := rfl
@[simp] theorem State.held_setDt (b : Byte) (k : Reg) : (s.setDt b).held k = s.held k := rfl
@[simp] theorem State.dataAddr_setDt (b : Byte) (k : Nat) : (s.setDt b).dataAddr k = s.dataAddr k := rfl
@[simp] theorem State.fetch_setDt (b : Byte) : (s.setDt b).fetch = s.fetch := rfl
@[simp] theorem State.readV_setSt (b : Byte) (y : Reg) : (s.setSt b).readV y = s.readV y := rfl
@[simp] theorem State.readByte_setSt (b : Byte) (c : Nat) : (s.setSt b).readByte c = s.readByte c := rfl
@[simp] theorem State.held_setSt (b : Byte) (k : Reg) : (s.setSt b).held k = s.held k := rfl
@[simp] theorem State.dataAddr_setSt (b : Byte) (k : Nat) : (s.setSt b).dataAddr k = s.dataAddr k := rfl
@[simp] theorem State.fetch_setSt (b : Byte) : (s.setSt b).fetch = s.fetch := rfl
@[simp] theorem State.readV_tick (y : Reg) : s.tick.readV y = s.readV y := rfl
@[simp] theorem State.readByte_tick (c : Nat) : s.tick.readByte c = s.readByte c := rfl
@[simp] theorem State.held_tick (k : Reg) : s.tick.held k = s.held k := rfl
@[simp] theorem State.dataAddr_tick (k : Nat) : s.tick.dataAddr k = s.dataAddr k := rfl
@[simp] theorem State.fetch_tick : s.tick.fetch = s.fetch := rfl
@[simp] theorem State.readV_present (d : Display) (y : Reg) : (s.present d).readV y = s.readV y := rfl
@[simp] theorem State.readByte_present (d : Display) (c : Nat) : (s.present d).readByte c = s.readByte c := rfl
@[simp] theorem State.held_present (d : Display) (k : Reg) : (s.present d).held k = s.held k := rfl
@[simp] theorem State.dataAddr_present (d : Display) (k : Nat) : (s.present d).dataAddr k = s.dataAddr k := rfl
@[simp] theorem State.fetch_present (d : Display) : (s.present d).fetch = s.fetch := rfl
@[simp] theorem State.readV_raise (f : FaultCode) (y : Reg) : (s.raise f).readV y = s.readV y := rfl
@[simp] theorem State.readByte_raise (f : FaultCode) (c : Nat) : (s.raise f).readByte c = s.readByte c := rfl
@[simp] theorem State.held_raise (f : FaultCode) (k : Reg) : (s.raise f).held k = s.held k := rfl
@[simp] theorem State.dataAddr_raise (f : FaultCode) (k : Nat) : (s.raise f).dataAddr k = s.dataAddr k := rfl
@[simp] theorem State.fetch_raise (f : FaultCode) : (s.raise f).fetch = s.fetch := rfl
@[simp] theorem State.readV_faultedCycle (y : Reg) : s.faultedCycle.readV y = s.readV y := rfl
@[simp] theorem State.readByte_faultedCycle (c : Nat) : s.faultedCycle.readByte c = s.readByte c := rfl
@[simp] theorem State.held_faultedCycle (k : Reg) : s.faultedCycle.held k = s.held k := rfl
@[simp] theorem State.dataAddr_faultedCycle (k : Nat) : s.faultedCycle.dataAddr k = s.dataAddr k := rfl
@[simp] theorem State.fetch_faultedCycle : s.faultedCycle.fetch = s.fetch := rfl
@[simp] theorem State.readV_recordUnknown (op : Word) (y : Reg) : (s.recordUnknown op).readV y = s.readV y := rfl
@[simp] theorem State.readByte_recordUnknown (op : Word) (c : Nat) : (s.recordUnknown op).readByte c = s.readByte c := rfl
@[simp] theorem State.held_recordUnknown (op : Word) (k : Reg) : (s.recordUnknown op).held k = s.held k := rfl
@[simp] theorem State.dataAddr_recordUnknown (op : Word) (k : Nat) : (s.recordUnknown op).dataAddr k = s.dataAddr k := rfl
@[simp] theorem State.readV_supplyRand (b : Byte) (y : Reg) : (s.supplyRand b).readV y = s.readV y := rfl
@[simp] theorem State.readByte_supplyRand (b : Byte) (c : Nat) : (s.supplyRand b).readByte c = s.readByte c := rfl
@[simp] theorem State.held_supplyRand (b : Byte) (k : Reg) : (s.supplyRand b).held k = s.held k := rfl
@[simp] theorem State.dataAddr_supplyRand (b : Byte) (k : Nat) : (s.supplyRand b).dataAddr k = s.dataAddr k := rfl
@[simp] theorem State.fetch_supplyRand (b : Byte) : (s.supplyRand b).fetch = s.fetch := rfl
@[simp] theorem State.readV_countDraw (y : Reg) : s.countDraw.readV y = s.readV y := rfl
@[simp] theorem State.readByte_countDraw (c : Nat) : s.countDraw.readByte c = s.readByte c := rfl
@[simp] theorem State.held_countDraw (k : Reg) : s.countDraw.held k = s.held k := rfl
@[simp] theorem State.dataAddr_countDraw (k : Nat) : s.countDraw.dataAddr k = s.dataAddr k := rfl
@[simp] theorem State.fetch_countDraw : s.countDraw.fetch = s.fetch := rfl

@[simp] theorem State.entry_writeV (x : Reg) (b : Byte) (k : Nat) : (s.writeV x b).entry k = s.entry k := rfl
@[simp] theorem State.entry_setPc (a : Word) (k : Nat) : (s.setPc a).entry k = s.entry k := rfl
@[simp] theorem State.entry_setI (a : Word) (k : Nat) : (s.setI a).entry k = s.entry k := rfl
@[simp] theorem State.entry_writeByte (a : Nat) (b : Byte) (k : Nat) : (s.writeByte a b).entry k = s.entry k := rfl
@[simp] theorem State.entry_setDt (b : Byte) (k : Nat) : (s.setDt b).entry k = s.entry k := rfl
@[simp] theorem State.entry_setSt (b : Byte) (k : Nat) : (s.setSt b).entry k = s.entry k := rfl
@[simp] theorem State.entry_tick (k : Nat) : s.tick.entry k = s.entry k := rfl
@[simp] theorem State.entry_present (d : Display) (k : Nat) : (s.present d).entry k = s.entry k := rfl
@[simp] theorem State.entry_raise (f : FaultCode) (k : Nat) : (s.raise f).entry k = s.entry k := rfl
@[simp] theorem State.entry_faultedCycle (k : Nat) : s.faultedCycle.entry k = s.entry k := rfl
@[simp] theorem State.entry_recordUnknown (op : Word) (k : Nat) : (s.recordUnknown op).entry k = s.entry k := rfl
@[simp] theorem State.entry_supplyRand (b : Byte) (k : Nat) : (s.supplyRand b).entry k = s.entry k := rfl
@[simp] theorem State.entry_countDraw (k : Nat) : s.countDraw.entry k = s.entry k := rfl

/-! ### Composite updates -/

@[simp] theorem State.nextPc_eq : s.nextPc = s.pc + 2 := rfl
@[simp] theorem State.skipPc_eq : s.skipPc = s.pc + 4 := rfl
@[simp] theorem State.advance_eq : s.advance = s.setPc (s.pc + 2) := rfl
@[simp] theorem State.writeFlag_eq (flag : Bool) : s.writeFlag flag = s.writeV VF (if flag then 1 else 0) := rfl
@[simp] theorem State.skipIf_eq (cond : Bool) : s.skipIf cond = s.setPc (if cond then s.pc + 4 else s.pc + 2) := rfl
@[simp] theorem State.result_eq (x : Reg) (b : Byte) : s.result x b = (s.writeV x b).setPc (s.pc + 2) := rfl
@[simp] theorem State.resultFlag_eq (x : Reg) (b : Byte) (flag : Bool) :
    s.resultFlag x b flag = ((s.writeV x b).writeV VF (if flag then 1 else 0)).setPc (s.pc + 2) := rfl

end Sys2Proof.Machine
end

