-- ==== Sys2Proof/Laws/Ops.lean ====
section
/-! SUPPORT. For each shared operation one lemma that says everything it can do: registers, memory, stack, timers, keys,
fetch, raising a fault, the end of a cycle. -/

namespace Sys2Proof.Machine

/-! ### Parameters -/

/-- The constraints of R7 as facts about numbers; `MEM_SIZE` divides 65536, so that a reduction of an address commutes with
the wrap of a 16-bit register (R27, R61). -/
theorem params_bounds {p : Config.Params} (h : p.wf = true) :
    256 ≤ p.memSize ∧ p.memSize ≤ 65536 ∧ p.memSize ∣ 65536 ∧ p.fontBase + 16 * p.glyphH ≤ p.progStart ∧
    p.progStart < p.memSize ∧ p.font.length = 16 * p.glyphH ∧ p.fontBase = 0 ∧ 8 ≤ p.dispW ∧ 15 ≤ p.dispH ∧
    1 ≤ p.stackDepth := by
  simp only [Config.Params.wf, Config.Params.memSizeOk, Config.Params.layoutOk, Config.Params.fontOk,
    Config.Params.fontBaseOk, Config.Params.widthOk, Config.Params.heightOk, Config.Params.stackOk, Bool.and_eq_true,
    decide_eq_true_eq, List.mem_cons, List.not_mem_nil, or_false] at h
  obtain ⟨⟨⟨⟨⟨⟨hm, hl⟩, hf⟩, hb⟩, hw⟩, hh⟩, hs⟩ := h
  refine ⟨?_, ?_, ?_, hl.1, hl.2, hf, hb, hw, hh, hs⟩ <;>
    rcases hm with e | e | e | e | e | e | e | e | e <;> rw [e] <;> decide

/-! ### Registers and keys -/

/-- A register read after a register write (R10, R20). -/
theorem State.readV_writeV (s : State) (x : Reg) (b : Byte) (y : Reg) :
    (s.writeV x b).readV y = if y = x then b else s.readV y := by
  simp only [State.readV, State.writeV, Fin.getElem_fin, Vector.getElem_set, Fin.ext_iff, eq_comm]

/-- The key a byte names (R210, R211): its low nibble. -/
theorem keyIndex_val (b : Byte) : (keyIndex b).val = (b &&& 0x0F).toNat := by
  simp only [keyIndex, BitVec.toNat_and]
  exact (Nat.and_two_pow_sub_one_eq_mod b.toNat 4).symm

/-- The lowest held key (R213): held, and none below it is. -/
theorem State.firstHeld_eq_some (s : State) {k : Reg} (hk : s.held k = true) (low : ∀ j < k, s.held j = false) :
    s.firstHeld = some k := by
  rw [State.firstHeld, List.find?_eq_some_iff_getElem]
  refine ⟨hk, k.val, by simp, by simp, fun j hj => ?_⟩
  have := low ⟨j, by omega⟩ hj
  simpa using this

/-- No key is held, so there is no lowest one (R213). -/
theorem State.firstHeld_eq_none (s : State) (h : ∀ k, s.held k = false) : s.firstHeld = none := by
  simp [State.firstHeld, h]

/-! ### Memory -/

/-- A read after a write: both addresses are reduced, and only that byte changes (R61). -/
theorem State.readByte_writeByte (s : State) (a : Nat) (b : Byte) (c : Nat) :
    (s.writeByte a b).readByte c = if c % s.cfg.memSize = a % s.cfg.memSize then b else s.readByte c :=
  Memory.get_set s.mem (a % s.cfg.memSize) b (c % s.cfg.memSize)

/-- Reading depends on the reduced address alone (R61). -/
theorem State.readByte_mod (s : State) (a : Nat) : s.readByte (a % s.cfg.memSize) = s.readByte a := by
  simp [State.readByte]

/-- A store keeps the invariant: the address is reduced into the array (R61). -/
theorem State.inv_writeByte {s : State} (h : s.Inv) (a : Nat) (b : Byte) : (s.writeByte a b).Inv :=
  { h with mem := Memory.wf_set h.mem (Nat.mod_lt _ (by have := params_bounds h.cfg; omega)) b }

/-- Two bytes as a number, the first the high-order one (R62). -/
theorem wordOfBytes_toNat (hi lo : Byte) : (wordOfBytes hi lo).toNat = hi.toNat * 256 + lo.toNat := by
  have := lo.isLt
  simp only [wordOfBytes, BitVec.toNat_append]
  rw [← Nat.shiftLeft_add_eq_or_of_lt this, Nat.shiftLeft_eq]

/-- The fetched word as a number (R62, R121). -/
theorem State.fetch_toNat (s : State) :
    s.fetch.toNat = (s.readByte s.pc.toNat).toNat * 256 + (s.readByte (s.pc.toNat + 1)).toNat :=
  wordOfBytes_toNat _ _

/-! ### Call stack -/

/-- A push with room (R141): the entry at `SP`, and `SP` one more. -/
theorem State.push_of_ne (s : State) (w : Word) (h : s.sp ≠ s.cfg.stackDepth) :
    s.push w = some { s with stack := s.stack.set s.sp w, sp := s.sp + 1 } :=
  if_neg h

/-- A push on a full stack (R141). -/
theorem State.push_of_full (s : State) (w : Word) (h : s.sp = s.cfg.stackDepth) : s.push w = none :=
  if_pos h

/-- An entry after one entry of the stack is written. -/
theorem State.getD_set_stack (l : List Word) (j k : Nat) (w : Word) :
    (l.set j w).getD k 0 = if k = j ∧ j < l.length then w else l.getD k 0 := by
  simp only [List.getD_eq_getElem?_getD, List.getElem?_set]
  by_cases h : j = k
  · subst h
    by_cases hl : j < l.length
    · simp [hl]
    · simp [hl]
  · have h' : ¬ k = j := fun e => h e.symm
    simp [h, h']

/-- A pop with an entry (R142): the entry below `SP`, and `SP` one less. -/
theorem State.pop_of_pos (s : State) (h : 0 < s.sp) : s.pop = some (s.entry (s.sp - 1), { s with sp := s.sp - 1 }) :=
  if_neg (by omega)

/-- A pop of an empty stack (R142). -/
theorem State.pop_of_empty (s : State) (h : s.sp = 0) : s.pop = none :=
  if_pos h

/-! ### Timers and the cycle -/

/-- A count down as a number: one less, never below zero (R29, R124). -/
theorem countDown_toNat (b : Byte) : (countDown b).toNat = b.toNat - 1 := by
  unfold countDown
  split
  · next h => simp [h]
  · next h =>
    have : b.toNat ≠ 0 := fun h0 => h (BitVec.eq_of_toNat_eq (by simpa using h0))
    rw [BitVec.toNat_sub]
    have := b.isLt
    have h1 : (1 : Byte).toNat = 1 := rfl
    omega

/-- The tone signal of a tick: the sound timer was exactly 1 (R125). -/
theorem State.tick_tone_iff (s : State) : s.tick.tone = true ↔ s.st.toNat = 1 := by
  show decide (s.st = 1) = true ↔ _
  rw [decide_eq_true_iff, ← BitVec.toNat_inj]
  rfl

/-- The end of a cycle on a core the instruction left healthy: the tick (R120). -/
theorem State.finish_of_healthy {t : State} (h : t.fault = .none) : t.finish = t.tick := if_pos h

/-- The end of a cycle whose instruction raised a fault: nothing (R126). -/
theorem State.finish_of_faulted {t : State} (h : t.fault ≠ .none) : t.finish = t := if_neg h

/-- The execute part of a cycle, when the fetched word is an instruction. -/
theorem State.afterExecute_of_some {s : State} {i : Instr} (h : decodeWord s.fetch = some i) : s.afterExecute = exec i s := by
  simp [State.afterExecute, h]

/-- The execute part of a cycle, when the fetched word is an unknown opcode. -/
theorem State.afterExecute_of_none {s : State} (h : decodeWord s.fetch = none) :
    s.afterExecute = .next (s.recordUnknown s.fetch) := by
  simp [State.afterExecute, h]

/-- A cycle of a healthy core, from its execute part (R120). -/
theorem runCycle_of_healthy (rand : Byte) {s u : State} (hs : s.fault = .none)
    (hu : (s.supplyRand rand).afterExecute = .next u) : runCycle rand s = .next u.finish := by
  simp only [State.afterExecute, State.fetch_supplyRand] at hu
  simp only [runCycle, if_pos hs, runWord]
  cases hd : decodeWord s.fetch with
  | none =>
    simp only [hd] at hu ⊢
    cases hu
    rfl
  | some i =>
    simp only [hd] at hu ⊢
    rw [hu]

/-- A cycle of a faulted core (R126). -/
theorem runCycle_of_faulted (rand : Byte) {s : State} (hs : s.fault ≠ .none) :
    runCycle rand s = .next (s.supplyRand rand).faultedCycle := if_neg hs

/-- A step of a healthy core, from the execute part of its cycle (R120). -/
theorem step_of_healthy {s u : State} (hs : s.fault = .none)
    (hu : (s.countDraw.supplyRand (Config.randByte s.draws)).afterExecute = .next u) : step s = .next u.finish :=
  runCycle_of_healthy _ hs hu

/-- A step of a faulted core (R126). -/
theorem step_of_faulted {s : State} (hs : s.fault ≠ .none) :
    step s = .next (s.countDraw.supplyRand (Config.randByte s.draws)).faultedCycle :=
  runCycle_of_faulted _ hs

/-- Everything a cycle can do (R120): a faulted core's cycle, or the execute part and the end of the cycle. -/
theorem runCycle_cases {rand : Byte} {s t : State} (h : runCycle rand s = .next t) :
    (s.fault ≠ .none ∧ t = (s.supplyRand rand).faultedCycle) ∨
    (s.fault = .none ∧ ∃ u, (s.supplyRand rand).afterExecute = .next u ∧ t = u.finish) := by
  by_cases hs : s.fault = .none
  · refine .inr ⟨hs, ?_⟩
    simp only [runCycle, if_pos hs, runWord] at h
    cases hd : decodeWord s.fetch with
    | none =>
      simp only [hd] at h
      cases h
      exact ⟨_, by simp only [State.afterExecute, State.fetch_supplyRand, hd], rfl⟩
    | some i =>
      cases he : exec i (s.supplyRand rand) with
      | next u =>
        simp only [hd, he] at h
        cases h
        exact ⟨u, by simp only [State.afterExecute, State.fetch_supplyRand, hd, he], rfl⟩
      | fault f => simp only [hd, he] at h; cases h
      | refused r => simp only [hd, he] at h; cases h
  · rw [runCycle_of_faulted rand hs] at h
    exact .inl ⟨hs, (Host.Outcome.next.inj h).symm⟩

/-- Everything a step can do: a cycle with the next random byte. -/
theorem step_cases {s t : State} (h : step s = .next t) :
    (s.fault ≠ .none ∧ t = (s.countDraw.supplyRand (Config.randByte s.draws)).faultedCycle) ∨
    (s.fault = .none ∧
      ∃ u, (s.countDraw.supplyRand (Config.randByte s.draws)).afterExecute = .next u ∧ t = u.finish) :=
  runCycle_cases h

end Sys2Proof.Machine
end

