-- ==== Sys2Proof/Laws/Draw.lean ====
section
/-! SUPPORT. What drawing does to the display (R231): `Paints d e P` says that `e` is `d` with exactly the pixels of `P`
inverted, and that a hit is reported iff one of them was 1. Bits, rows and sprites paint; painting disjoint sets of pixels
one after the other paints their union. -/

namespace Sys2Proof.Machine

variable {p : Config.Params}

/-- A pixel after one pixel of the display is inverted. -/
theorem Display.pixel_flip {d : Display} (h : d.shaped p) {r c : Nat} (hr : r < p.dispH) (hc : c < p.dispW) (r' c' : Nat) :
    (d.flip r c).pixel r' c' = if r' = r ∧ c' = c then !d.pixel r c else d.pixel r' c' := by
  have hl : r < d.length := h.1 ▸ hr
  have hw : c < (d[r]).length := by rw [h.2 _ (List.getElem_mem hl)]; exact hc
  simp only [Display.flip, Display.pixel, List.getD_eq_getElem?_getD, List.getElem?_modify]
  by_cases hrr : r = r'
  · subst hrr
    by_cases hcc : c = c'
    · subst hcc; simp [hl, hw]
    · have : ¬ c' = c := fun e => hcc e.symm
      simp [hl, hcc, this]
  · have : ¬ r' = r := fun e => hrr e.symm
    simp [hrr, this]

/-- Inverting a pixel keeps the display's size. -/
theorem Display.shaped_flip {d : Display} (h : d.shaped p) (r c : Nat) : (d.flip r c).shaped p := by
  refine ⟨by simp [Display.flip, h.1], fun row hrow => ?_⟩
  obtain ⟨k, hk, rfl⟩ := List.mem_iff_getElem.1 hrow
  have hk' : k < d.length := by simpa [Display.flip] using hk
  have hd := h.2 _ (List.getElem_mem hk')
  simp only [Display.flip, List.getElem_modify]
  split <;> simp [hd]

/-- A pixel of the cleared display (R230). -/
theorem Display.pixel_clear (r c : Nat) : (Display.clear p).pixel r c = false := by
  simp only [Display.clear, Display.pixel, List.getD_eq_getElem?_getD, List.getElem?_replicate]
  split
  · simp only [Option.getD_some, List.getElem?_replicate]
    split <;> rfl
  · rfl

/-- The cleared display has its size. -/
theorem Display.shaped_clear : (Display.clear p).shaped p := by
  simp +contextual [Display.clear, Display.shaped, List.mem_replicate]

/-- Two displays of one size with the same pixels are the same. -/
theorem Display.ext_pixel {d e : Display} (hd : d.shaped p) (he : e.shaped p) (h : ∀ r c, d.pixel r c = e.pixel r c) :
    d = e := by
  refine List.ext_getElem (hd.1.trans he.1.symm) fun r h1 h2 => ?_
  have w1 := hd.2 _ (List.getElem_mem h1)
  have w2 := he.2 _ (List.getElem_mem h2)
  refine List.ext_getElem (w1.trans w2.symm) fun c h3 h4 => ?_
  have := h r c
  simpa [Display.pixel, List.getD_eq_getElem?_getD, h1, h2, h3, h4] using this

/-- `e` is `d` with exactly the pixels of `P` inverted, and its hit says whether one of them was 1 (or `d` had one). -/
def Canvas.Paints (d e : Canvas) (P : Nat → Nat → Prop) : Prop :=
  (∀ r c, P r c → e.disp.pixel r c = !d.disp.pixel r c) ∧
  (∀ r c, ¬ P r c → e.disp.pixel r c = d.disp.pixel r c) ∧
  (e.hit = true ↔ d.hit = true ∨ ∃ r c, P r c ∧ d.disp.pixel r c = true)

/-- Nothing painted. -/
theorem Canvas.paints_nothing (d : Canvas) {P : Nat → Nat → Prop} (h : ∀ r c, ¬ P r c) : d.Paints d P := by
  refine ⟨fun r c hp => absurd hp (h r c), fun _ _ _ => rfl, ?_⟩
  simp [h]

/-- Painting one set of pixels and then another, disjoint from it, paints their union. -/
theorem Canvas.Paints.trans {d e f : Canvas} {P Q R : Nat → Nat → Prop} (h : d.Paints e P)
    (h' : e.Paints f Q) (disjoint : ∀ r c, P r c → ¬ Q r c) (union : ∀ r c, R r c ↔ P r c ∨ Q r c) : d.Paints f R := by
  refine ⟨fun r c hr => ?_, fun r c hr => ?_, ?_⟩
  · rcases (union r c).1 hr with hp | hq
    · rw [h'.2.1 r c (disjoint r c hp), h.1 r c hp]
    · rw [h'.1 r c hq, h.2.1 r c (fun hp => disjoint r c hp hq)]
  · have hp : ¬ P r c := fun hp => hr ((union r c).2 (.inl hp))
    have hq : ¬ Q r c := fun hq => hr ((union r c).2 (.inr hq))
    rw [h'.2.1 r c hq, h.2.1 r c hp]
  · rw [h'.2.2, h.2.2]
    constructor
    · rintro ((hd | ⟨r, c, hp, hx⟩) | ⟨r, c, hq, hx⟩)
      · exact .inl hd
      · exact .inr ⟨r, c, (union r c).2 (.inl hp), hx⟩
      · refine .inr ⟨r, c, (union r c).2 (.inr hq), ?_⟩
        rwa [h.2.1 r c (fun hp => disjoint r c hp hq)] at hx
    · rintro (hd | ⟨r, c, hr, hx⟩)
      · exact .inl (.inl hd)
      · rcases (union r c).1 hr with hp | hq
        · exact .inl (.inr ⟨r, c, hp, hx⟩)
        · refine .inr ⟨r, c, hq, ?_⟩
          rwa [h.2.1 r c (fun hp => disjoint r c hp hq)]

/-- One bit of a sprite paints its pixel if it is 1, and nothing if it is 0. -/
theorem Canvas.plot_paints (hp : p.wf = true) {d : Canvas} (h : d.disp.shaped p) (r c : Nat) (bit : Bool) :
    d.Paints (d.plot p r c bit) (fun r' c' => bit = true ∧ r' = r % p.dispH ∧ c' = c % p.dispW) := by
  have hb := params_bounds hp
  have flip := Display.pixel_flip h (Nat.mod_lt r (show 0 < p.dispH by omega)) (Nat.mod_lt c (show 0 < p.dispW by omega))
  cases bit with
  | false => exact Canvas.paints_nothing d (by simp)
  | true =>
    refine ⟨?_, ?_, ?_⟩
    · rintro r' c' ⟨-, rfl, rfl⟩
      simp [Canvas.plot, flip]
    · intro r' c' h
      have : ¬ (r' = r % p.dispH ∧ c' = c % p.dispW) := fun e => h ⟨rfl, e⟩
      simp [Canvas.plot, flip, this]
    · simp [Canvas.plot]

/-- One bit of a sprite keeps the display's size. -/
theorem Canvas.shaped_plot {d : Canvas} (h : d.disp.shaped p) (r c : Nat) (bit : Bool) :
    (d.plot p r c bit).disp.shaped p := by
  cases bit with
  | false => exact h
  | true => exact Display.shaped_flip h _ _

/-- The pixels of the first `n` bits of a sprite row. -/
def rowCovers (p : Config.Params) (b : Byte) (r ox n : Nat) (r' c' : Nat) : Prop :=
  r' = r % p.dispH ∧ ∃ k < n, b.getLsbD (7 - k) = true ∧ c' = (ox + k) % p.dispW

/-- A sprite row keeps the display's size. -/
theorem Canvas.shaped_drawRow {d : Canvas} (h : d.disp.shaped p) (b : Byte) (r ox n : Nat) :
    (d.drawRow p b r ox n).disp.shaped p := by
  induction n with
  | zero => exact h
  | succ n ih => exact Canvas.shaped_plot ih _ _ _

/-- Coordinates less than the size apart do not fall together (R7, R231). -/
theorem wrapped_ne {m j k n o : Nat} (hj : j < n) (hk : k < n) (hn : n ≤ m) (h : (o + j) % m = (o + k) % m) : j = k := by
  rcases Nat.lt_trichotomy j k with hlt | he | hlt
  · have := Nat.sub_mod_eq_zero_of_mod_eq h.symm
    rw [Nat.mod_eq_of_lt (by omega)] at this
    omega
  · exact he
  · have := Nat.sub_mod_eq_zero_of_mod_eq h
    rw [Nat.mod_eq_of_lt (by omega)] at this
    omega

/-- A sprite row paints the pixels of its 1 bits: at most 8 of them, so no two fall together (R7, R231). -/
theorem Canvas.drawRow_paints (hp : p.wf = true) {d : Canvas} (h : d.disp.shaped p) (b : Byte) (r ox n : Nat) (hn : n ≤ 8) :
    d.Paints (d.drawRow p b r ox n) (rowCovers p b r ox n) := by
  have hb := params_bounds hp
  induction n with
  | zero => exact Canvas.paints_nothing d (by simp [rowCovers])
  | succ n ih =>
    refine (ih (by omega)).trans (Canvas.plot_paints hp (Canvas.shaped_drawRow h b r ox n) r (ox + n) _) ?_ ?_
    · rintro r' c' ⟨-, k, hk, -, hc⟩ ⟨-, -, hc'⟩
      have := wrapped_ne (n := 8) (by omega) (by omega) (by omega) (hc.symm.trans hc')
      omega
    · intro r' c'
      simp only [rowCovers]
      constructor
      · rintro ⟨hr, k, hk, hb, hc⟩
        by_cases h : k = n
        · subst h; exact .inr ⟨hb, hr, hc⟩
        · exact .inl ⟨hr, k, by omega, hb, hc⟩
      · rintro (⟨hr, k, hk, hb, hc⟩ | ⟨hb, hr, hc⟩)
        · exact ⟨hr, k, by omega, hb, hc⟩
        · exact ⟨hr, n, by omega, hb, hc⟩

/-- A sprite keeps the display's size. -/
theorem State.shaped_drawRows {s : State} (h : s.disp.shaped s.cfg) (ox oy n : Nat) :
    (s.drawRows ox oy n).disp.shaped s.cfg := by
  induction n with
  | zero => exact h
  | succ n ih => exact Canvas.shaped_drawRow ih _ _ _ _

/-- A sprite of at most 15 rows paints the pixels it covers: its rows fall on different display rows (R7, R231). -/
theorem State.drawRows_paints {s : State} (h : s.Inv) (ox oy n : Nat) (hn : n ≤ 15) :
    Canvas.Paints ⟨s.disp, false⟩ (s.drawRows ox oy n) (s.spriteCovers ox oy n) := by
  have hb := params_bounds h.cfg
  induction n with
  | zero => exact Canvas.paints_nothing _ (by simp [State.spriteCovers])
  | succ n ih =>
    refine (ih (by omega)).trans (Canvas.drawRow_paints h.cfg (State.shaped_drawRows h.disp ox oy n)
      (s.readByte (s.dataAddr n)) (oy + n) ox 8 (Nat.le_refl 8)) ?_ ?_
    · rintro r c ⟨j, hj, k, hk, hb, hr, hc⟩ ⟨hr', -⟩
      have := wrapped_ne (n := 15) (by omega) (by omega) (by omega) (hr.symm.trans hr')
      omega
    · intro r c
      simp only [State.spriteCovers, rowCovers]
      constructor
      · rintro ⟨j, hj, k, hk, hb, hr, hc⟩
        by_cases h : j = n
        · subst h; exact .inr ⟨hr, k, hk, hb, hc⟩
        · exact .inl ⟨j, by omega, k, hk, hb, hr, hc⟩
      · rintro (⟨j, hj, k, hk, hb, hr, hc⟩ | ⟨hr, k, hk, hb, hc⟩)
        · exact ⟨j, by omega, k, hk, hb, hr, hc⟩
        · exact ⟨n, by omega, k, hk, hb, hr, hc⟩

end Sys2Proof.Machine
end

