-- ==== Sys2Proof/Laws/Operands.lean ====
section
/-! SUPPORT. What the dump and the load of a run of registers do (R194, R195), and the digits and addresses of the operand
forms as numbers. -/

namespace Sys2Proof.Machine

/-! ### Operand forms as numbers -/

theorem addrOf_toNat (nnn : Addr12) : (addrOf nnn).toNat = nnn.toNat := by
  have := nnn.isLt
  simp only [addrOf, BitVec.toNat_setWidth]
  omega

theorem State.glyphAddr_toNat {s : State} (hp : s.cfg.wf = true) (b : Byte) :
    (s.glyphAddr b).toNat = s.cfg.fontBase + (b &&& 0x0F).toNat * s.cfg.glyphH := by
  have h : (b &&& 0x0F).toNat = b.toNat % 16 := by
    rw [← keyIndex_val]; rfl
  have h16 := Nat.mod_lt b.toNat (show 0 < 16 by decide)
  have hle := Nat.mul_le_mul_right s.cfg.glyphH (Nat.le_of_lt h16)
  have hb := params_bounds hp
  simp only [State.glyphAddr, BitVec.toNat_ofNat, h]
  exact Nat.mod_eq_of_lt (by omega)

theorem hundreds_toNat (b : Byte) : (hundreds b).toNat = b.toNat / 100 := by
  have := b.isLt
  simp only [hundreds, BitVec.toNat_ofNat]; omega

theorem tens_toNat (b : Byte) : (tens b).toNat = b.toNat / 10 % 10 := by
  simp only [tens, BitVec.toNat_ofNat]; omega

theorem ones_toNat (b : Byte) : (ones b).toNat = b.toNat % 10 := by
  simp only [ones, BitVec.toNat_ofNat]; omega

theorem regNum_val (k : Reg) : regNum k.val = k := Fin.ext (Nat.mod_eq_of_lt k.isLt)

/-- The addresses `I`, `I + 1`, ... that one instruction uses are distinct once reduced (R65). -/
theorem State.dataAddr_distinct {s : State} (hp : s.cfg.wf = true) {j k : Nat} (hj : j < 16) (hk : k < 16) (h : j ≠ k) :
    s.dataAddr j % s.cfg.memSize ≠ s.dataAddr k % s.cfg.memSize := by
  have hm := (params_bounds hp).1
  intro e
  simp only [State.dataAddr] at e
  have hd := Nat.sub_mod_eq_zero_of_mod_eq e
  have hd' := Nat.sub_mod_eq_zero_of_mod_eq e.symm
  rw [Nat.mod_eq_of_lt (by omega)] at hd hd'
  omega

/-! ### Dump -/

/-- The dump changes memory alone (R194). -/
theorem State.dumpRegs_frame (s : State) (n : Nat) : s.dumpRegs n = { s with mem := (s.dumpRegs n).mem } := by
  induction n with
  | zero => rfl
  | succ n ih => rw [State.dumpRegs, ih]; rfl

@[simp] theorem State.dumpRegs_cfg (s : State) (n : Nat) : (s.dumpRegs n).cfg = s.cfg := by
  rw [State.dumpRegs_frame]

/-- The dump keeps the invariant. -/
theorem State.inv_dumpRegs {s : State} (h : s.Inv) (n : Nat) : (s.dumpRegs n).Inv := by
  induction n with
  | zero => exact h
  | succ n ih => exact State.inv_writeByte ih _ _

/-- The dump leaves every byte outside its run as it was (R194). -/
theorem State.readByte_dumpRegs_outside (s : State) (n a : Nat)
    (h : ∀ k < n, a % s.cfg.memSize ≠ s.dataAddr k % s.cfg.memSize) : (s.dumpRegs n).readByte a = s.readByte a := by
  induction n with
  | zero => rfl
  | succ n ih =>
    rw [State.dumpRegs, State.readByte_writeByte, State.dumpRegs_cfg, if_neg (h n (by omega)), ih fun k hk => h k (by omega)]

/-- The dump stores register `k` at `I + k` (R194). -/
theorem State.readByte_dumpRegs_inside {s : State} (hp : s.cfg.wf = true) (n k : Nat) (hn : n ≤ 16) (hk : k < n) :
    (s.dumpRegs n).readByte (s.dataAddr k) = s.readV (regNum k) := by
  induction n with
  | zero => omega
  | succ n ih =>
    rw [State.dumpRegs, State.readByte_writeByte, State.dumpRegs_cfg]
    by_cases h : k = n
    · subst h; rw [if_pos rfl]
    · rw [if_neg (State.dataAddr_distinct hp (by omega) (by omega) h), ih (by omega) (by omega)]

/-! ### Load -/

/-- The load changes general registers alone (R195). -/
theorem State.loadRegs_frame (s : State) (n : Nat) : s.loadRegs n = { s with v := (s.loadRegs n).v } := by
  induction n with
  | zero => rfl
  | succ n ih => rw [State.loadRegs, ih]; rfl

@[simp] theorem State.loadRegs_cfg (s : State) (n : Nat) : (s.loadRegs n).cfg = s.cfg := by
  rw [State.loadRegs_frame]

/-- The load puts the byte at `I + k` into register `k`, for `k` below `n`, and leaves the other registers (R195). -/
theorem State.readV_loadRegs (s : State) (n : Nat) (hn : n ≤ 16) (y : Reg) :
    (s.loadRegs n).readV y = if y.val < n then s.readByte (s.dataAddr y.val) else s.readV y := by
  induction n with
  | zero => rfl
  | succ n ih =>
    rw [State.loadRegs, State.readV_writeV, ih (by omega)]
    have hr : (regNum n).val = n := Nat.mod_eq_of_lt (by omega)
    by_cases h : y.val = n
    · have : y = regNum n := Fin.ext (by omega)
      rw [if_pos this, if_pos (by omega), h]
    · have : y ≠ regNum n := fun e => h (by rw [e, hr])
      rw [if_neg this]
      by_cases h' : y.val < n
      · rw [if_pos h', if_pos (by omega)]
      · rw [if_neg h', if_neg (by omega)]

end Sys2Proof.Machine
end

