-- ==== Sys2Proof/Laws/PerInstr.lean ====
section
/-! SUPPORT. The statement per instruction, about the instruction as syntax: its encoding matches its row of the opcode
map (R96), `word & mask = match`, for every value of its operands. -/

namespace Sys2Proof

/-! ### A mask of whole nibbles keeps the fields it covers -/

theorem and_all4 (f : BitVec 4) : f &&& 0xF#4 = f := BitVec.and_allOnes (x := f)

theorem and_all8 (f : BitVec 8) : f &&& 0xFF#8 = f := BitVec.and_allOnes (x := f)

/-- The mask of format A (R92, R96). -/
theorem formatA_mask (f : Nibble) (nnn : Addr12) : formatA f nnn &&& 0xF000#16 = formatA f 0 := by
  show (f ++ nnn) &&& (0xF#4 ++ 0x000#12) = f ++ 0#12
  rw [BitVec.and_append, and_all4, BitVec.and_zero]

/-- The mask of format XK. -/
theorem formatXK_mask (f : Nibble) (x : Reg) (nn : Byte) : formatXK f x nn &&& 0xF000#16 = formatXK f 0 0 := by
  show (f ++ regBits x ++ nn) &&& (0xF#4 ++ 0x0#4 ++ 0x00#8) = f ++ 0#4 ++ 0#8
  rw [BitVec.and_append, BitVec.and_append, and_all4, BitVec.and_zero, BitVec.and_zero]

/-- The mask of format XS. -/
theorem formatXS_mask (f : Nibble) (x : Reg) (sel : Byte) : formatXK f x sel &&& 0xF0FF#16 = formatXK f 0 sel := by
  show (f ++ regBits x ++ sel) &&& (0xF#4 ++ 0x0#4 ++ 0xFF#8) = f ++ 0#4 ++ sel
  rw [BitVec.and_append, BitVec.and_append, and_all4, BitVec.and_zero, and_all8]

/-- The mask of format XY. -/
theorem formatXY_mask (f : Nibble) (x y : Reg) (sel : Nibble) :
    formatXY f x y sel &&& 0xF00F#16 = formatXY f 0 0 sel := by
  show (f ++ regBits x ++ regBits y ++ sel) &&& (0xF#4 ++ 0x0#4 ++ 0x0#4 ++ 0xF#4) = f ++ 0#4 ++ 0#4 ++ sel
  rw [BitVec.and_append, BitVec.and_append, BitVec.and_append, and_all4, and_all4, BitVec.and_zero, BitVec.and_zero]

/-- The mask of format XYN. -/
theorem formatXYN_mask (f : Nibble) (x y : Reg) (n : Nibble) : formatXY f x y n &&& 0xF000#16 = formatXY f 0 0 0 := by
  show (f ++ regBits x ++ regBits y ++ n) &&& (0xF#4 ++ 0x0#4 ++ 0x0#4 ++ 0x0#4) = f ++ 0#4 ++ 0#4 ++ 0#4
  rw [BitVec.and_append, BitVec.and_append, BitVec.and_append, and_all4, BitVec.and_zero, BitVec.and_zero,
    BitVec.and_zero]

end Sys2Proof

namespace Sys2Proof.Laws.Encoding

/-- The encoding of the instruction matches its row of the opcode map (R96). -/
def Statement (i : Instr) : Prop := rowMatches (encode i) i.row = true

theorem cls : Statement .cls := decide_eq_true rfl
theorem ret : Statement .ret := decide_eq_true rfl
theorem jp (nnn : Addr12) : Statement (.jp nnn) := decide_eq_true ((formatA_mask _ _).trans rfl)
theorem call (nnn : Addr12) : Statement (.call nnn) := decide_eq_true ((formatA_mask _ _).trans rfl)
theorem seImm (x : Reg) (nn : Byte) : Statement (.seImm x nn) := decide_eq_true ((formatXK_mask _ _ _).trans rfl)
theorem sneImm (x : Reg) (nn : Byte) : Statement (.sneImm x nn) := decide_eq_true ((formatXK_mask _ _ _).trans rfl)
theorem seReg (x y : Reg) : Statement (.seReg x y) := decide_eq_true ((formatXY_mask _ _ _ _).trans rfl)
theorem ldImm (x : Reg) (nn : Byte) : Statement (.ldImm x nn) := decide_eq_true ((formatXK_mask _ _ _).trans rfl)
theorem addImm (x : Reg) (nn : Byte) : Statement (.addImm x nn) := decide_eq_true ((formatXK_mask _ _ _).trans rfl)
theorem ldReg (x y : Reg) : Statement (.ldReg x y) := decide_eq_true ((formatXY_mask _ _ _ _).trans rfl)
theorem orReg (x y : Reg) : Statement (.orReg x y) := decide_eq_true ((formatXY_mask _ _ _ _).trans rfl)
theorem andReg (x y : Reg) : Statement (.andReg x y) := decide_eq_true ((formatXY_mask _ _ _ _).trans rfl)
theorem xorReg (x y : Reg) : Statement (.xorReg x y) := decide_eq_true ((formatXY_mask _ _ _ _).trans rfl)
theorem addReg (x y : Reg) : Statement (.addReg x y) := decide_eq_true ((formatXY_mask _ _ _ _).trans rfl)
theorem sub (x y : Reg) : Statement (.sub x y) := decide_eq_true ((formatXY_mask _ _ _ _).trans rfl)
theorem shr (x y : Reg) : Statement (.shr x y) := decide_eq_true ((formatXY_mask _ _ _ _).trans rfl)
theorem subn (x y : Reg) : Statement (.subn x y) := decide_eq_true ((formatXY_mask _ _ _ _).trans rfl)
theorem shl (x y : Reg) : Statement (.shl x y) := decide_eq_true ((formatXY_mask _ _ _ _).trans rfl)
theorem sneReg (x y : Reg) : Statement (.sneReg x y) := decide_eq_true ((formatXY_mask _ _ _ _).trans rfl)
theorem ldI (nnn : Addr12) : Statement (.ldI nnn) := decide_eq_true ((formatA_mask _ _).trans rfl)
theorem jpV0 (nnn : Addr12) : Statement (.jpV0 nnn) := decide_eq_true ((formatA_mask _ _).trans rfl)
theorem rnd (x : Reg) (nn : Byte) : Statement (.rnd x nn) := decide_eq_true ((formatXK_mask _ _ _).trans rfl)
theorem drw (x y : Reg) (n : Nibble) : Statement (.drw x y n) := decide_eq_true ((formatXYN_mask _ _ _ _).trans rfl)
theorem skp (x : Reg) : Statement (.skp x) := decide_eq_true ((formatXS_mask _ _ _).trans rfl)
theorem sknp (x : Reg) : Statement (.sknp x) := decide_eq_true ((formatXS_mask _ _ _).trans rfl)
theorem ldVxDt (x : Reg) : Statement (.ldVxDt x) := decide_eq_true ((formatXS_mask _ _ _).trans rfl)
theorem ldVxK (x : Reg) : Statement (.ldVxK x) := decide_eq_true ((formatXS_mask _ _ _).trans rfl)
theorem ldDtVx (x : Reg) : Statement (.ldDtVx x) := decide_eq_true ((formatXS_mask _ _ _).trans rfl)
theorem ldStVx (x : Reg) : Statement (.ldStVx x) := decide_eq_true ((formatXS_mask _ _ _).trans rfl)
theorem addI (x : Reg) : Statement (.addI x) := decide_eq_true ((formatXS_mask _ _ _).trans rfl)
theorem ldF (x : Reg) : Statement (.ldF x) := decide_eq_true ((formatXS_mask _ _ _).trans rfl)
theorem ldB (x : Reg) : Statement (.ldB x) := decide_eq_true ((formatXS_mask _ _ _).trans rfl)
theorem ldMemVx (x : Reg) : Statement (.ldMemVx x) := decide_eq_true ((formatXS_mask _ _ _).trans rfl)
theorem ldVxMem (x : Reg) : Statement (.ldVxMem x) := decide_eq_true ((formatXS_mask _ _ _).trans rfl)

end Sys2Proof.Laws.Encoding
end

