-- ==== Sys2Proof/Tests/Slice0.lean ====
section
/-! SUPPORT. Tests: the checks of WellFormed refuse ill-formed terms; every constructor's word, written out from the opcode
map; one-step vectors of 95_test_vectors.md (named T-...); and a witness for each statement that has hypotheses. -/

namespace Sys2Proof.Tests

set_option Elab.async false

open Sys2Proof Sys2Proof.Machine

/-! ### Well-formedness -/

/-- The defaults of R7 meet its constraints. -/
theorem test_params_wf : defaultParams.wf = true := by decide
/-- Not a power of two. -/
theorem test_memSize_refused : ({ defaultParams with memSize := 1000 } : Config.Params).memSizeOk = false := by decide
/-- Too small, although a power of two. -/
theorem test_memSize_small_refused : ({ defaultParams with memSize := 128 } : Config.Params).wf = false := by decide
/-- The program would start inside the font. -/
theorem test_layout_font_refused : ({ defaultParams with progStart := 79 } : Config.Params).layoutOk = false := by decide
/-- The program would start past memory. -/
theorem test_layout_end_refused : ({ defaultParams with progStart := 4096 } : Config.Params).layoutOk = false := by decide
/-- One font byte short. -/
theorem test_font_refused : ({ defaultParams with font := defaultParams.font.drop 1 } : Config.Params).fontOk = false := by decide
/-- The glyph formula has no base term. -/
theorem test_fontBase_refused : ({ defaultParams with fontBase := 1 } : Config.Params).fontBaseOk = false := by decide
/-- A sprite row would overlap itself. -/
theorem test_width_refused : ({ defaultParams with dispW := 7 } : Config.Params).widthOk = false := by decide
/-- Sprite rows would overlap. -/
theorem test_height_refused : ({ defaultParams with dispH := 14 } : Config.Params).heightOk = false := by decide
/-- No stack. -/
theorem test_stack_refused : ({ defaultParams with stackDepth := 0 } : Config.Params).stackOk = false := by decide
/-- `V16` is no register, 4096 no 12-bit address; VF and 4095 are. -/
theorem test_operand_refused : (Operand.reg 16).wf = false ∧ (Operand.lit 4096).wf = false ∧
    (Operand.reg 15).wf = true ∧ (Operand.lit 4095).wf = true := by decide
/-- A word and a byte that do not fit, and an instruction line with a bad operand. -/
theorem test_line_refused : (Line.dw 65536).wf = false ∧ (Line.db 256).wf = false ∧
    (Line.ins .SKP [.reg 16]).wf = false := by decide

/-- R100: "literals ... must fit their field", in each of its four widths. -/
theorem test_assembler_field_refused :
    assembleIns .LD [.reg 1, .lit 256] = .error (.doesNotFit 256) ∧ assembleIns .JP [.lit 4096] = .error (.doesNotFit 4096) ∧
    assembleIns .DRW [.reg 0, .reg 0, .lit 16] = .error (.doesNotFit 16) ∧
    assemble defaultParams [.dw 65536] = .error (.doesNotFit 65536) := by decide +kernel
/-- No instruction `CLS V0`; JP with a register takes `V0` only. -/
theorem test_assembler_operands_refused : assembleIns .CLS [.reg 0] = .error (.badOperands .CLS) ∧
    assembleIns .JP [.reg 1, .lit 0] = .error (.badOperands .JP) := by decide +kernel
/-- Labels that no line, or two lines, define. -/
theorem test_labels_refused : assemble defaultParams [.ins .JP [.label "a"]] = .error (.undefinedLabel "a") ∧
    assemble defaultParams [.label "a", .label "a"] = .error (.duplicateLabel "a") := by decide +kernel
/-- Program P3 of 95_test_vectors.md, assembled: its fourteen bytes. -/
theorem test_assemble_p3 : assemble defaultParams [.ins .LD [.reg 0, .lit 3], .ins .LD [.DT, .reg 0], .label "wait",
    .ins .LD [.reg 2, .DT], .ins .ADD [.reg 1, .lit 1], .ins .SE [.reg 2, .lit 0], .ins .JP [.label "wait"],
    .label "end", .ins .JP [.label "end"]] =
    .ok [0x60, 0x03, 0xF0, 0x15, 0xF2, 0x07, 0x71, 0x01, 0x32, 0x00, 0x12, 0x04, 0x12, 0x0C] := by decide +kernel
/-- R100: `SHR V1` has `Y = 0`; the two-operand spelling sets `Y`. -/
theorem test_assemble_shift : assemble defaultParams [.ins .SHR [.reg 1], .ins .SHR [.reg 1, .reg 2], .db 7] =
    .ok [0x81, 0x06, 0x81, 0x26, 0x07] := by decide +kernel

/-! ### Decoding: the word of every constructor, from the pattern column of R96 -/

theorem test_decode_cls : decodeWord 0x00E0 = some .cls := by decide
theorem test_decode_ret : decodeWord 0x00EE = some .ret := by decide
theorem test_decode_jp : decodeWord 0x1ABC = some (.jp 0xABC) := by decide
theorem test_decode_call : decodeWord 0x2ABC = some (.call 0xABC) := by decide
theorem test_decode_seImm : decodeWord 0x3A5C = some (.seImm 10 0x5C) := by decide
theorem test_decode_sneImm : decodeWord 0x4A5C = some (.sneImm 10 0x5C) := by decide
theorem test_decode_seReg : decodeWord 0x5AB0 = some (.seReg 10 11) := by decide
theorem test_decode_ldImm : decodeWord 0x6A5C = some (.ldImm 10 0x5C) := by decide
theorem test_decode_addImm : decodeWord 0x7A5C = some (.addImm 10 0x5C) := by decide
theorem test_decode_ldReg : decodeWord 0x8AB0 = some (.ldReg 10 11) := by decide
theorem test_decode_orReg : decodeWord 0x8AB1 = some (.orReg 10 11) := by decide
theorem test_decode_andReg : decodeWord 0x8AB2 = some (.andReg 10 11) := by decide
theorem test_decode_xorReg : decodeWord 0x8AB3 = some (.xorReg 10 11) := by decide
theorem test_decode_addReg : decodeWord 0x8AB4 = some (.addReg 10 11) := by decide
theorem test_decode_sub : decodeWord 0x8AB5 = some (.sub 10 11) := by decide
theorem test_decode_shr : decodeWord 0x8AB6 = some (.shr 10 11) := by decide
theorem test_decode_subn : decodeWord 0x8AB7 = some (.subn 10 11) := by decide
theorem test_decode_shl : decodeWord 0x8ABE = some (.shl 10 11) := by decide
theorem test_decode_sneReg : decodeWord 0x9AB0 = some (.sneReg 10 11) := by decide
theorem test_decode_ldI : decodeWord 0xAABC = some (.ldI 0xABC) := by decide
theorem test_decode_jpV0 : decodeWord 0xBABC = some (.jpV0 0xABC) := by decide
theorem test_decode_rnd : decodeWord 0xCA5C = some (.rnd 10 0x5C) := by decide
theorem test_decode_drw : decodeWord 0xDAB7 = some (.drw 10 11 7) := by decide
theorem test_decode_skp : decodeWord 0xEA9E = some (.skp 10) := by decide
theorem test_decode_sknp : decodeWord 0xEAA1 = some (.sknp 10) := by decide
theorem test_decode_ldVxDt : decodeWord 0xFA07 = some (.ldVxDt 10) := by decide
theorem test_decode_ldVxK : decodeWord 0xFA0A = some (.ldVxK 10) := by decide
theorem test_decode_ldDtVx : decodeWord 0xFA15 = some (.ldDtVx 10) := by decide
theorem test_decode_ldStVx : decodeWord 0xFA18 = some (.ldStVx 10) := by decide
theorem test_decode_addI : decodeWord 0xFA1E = some (.addI 10) := by decide
theorem test_decode_ldF : decodeWord 0xFA29 = some (.ldF 10) := by decide
theorem test_decode_ldB : decodeWord 0xFA33 = some (.ldB 10) := by decide
theorem test_decode_ldMemVx : decodeWord 0xFA55 = some (.ldMemVx 10) := by decide
theorem test_decode_ldVxMem : decodeWord 0xFA65 = some (.ldVxMem 10) := by decide

/-- R97: a word of each family that has unknown words, and the two neighbours of CLS and RET. -/
theorem test_decode_unknown : ∀ w ∈ [0x0000, 0x00E1, 0x01EE, 0x5AB1, 0x8AB8, 0x8ABF, 0x9AB8, 0xEA9F, 0xEAA0, 0xFA66, 0xFA00],
    decodeWord (BitVec.ofNat 16 w) = none := by decide
/-- R90: one byte is no instruction; an unknown word is rejected by name; the rest of the bytes is given back. -/
theorem test_decode_bytes : decode [0x12] = .error .truncated ∧ decode [0x51, 0x21] = .error (.unknownOpcode 0x5121) ∧
    decode [0x12, 0x34, 0x56] = .ok (.jp 0x234, [0x56]) := by decide +kernel
/-- The table's 16-bit numbering is the word itself. -/
theorem test_decode_table : decodeTableWord 16 0xD125 = some (.drw 1 2 5) ∧ decodeTableWord 16 0x5121 = none := by
  decide +kernel

/-! ### One-step vectors -/

/-- The reset state with a word at 0x200 and some registers set. -/
def start (w : Word) (regs : List (Reg × Byte)) : State :=
  regs.foldl (fun s p => s.writeV p.1 p.2) (State.reset.placeWord w)

/-- The state an outcome answers; the reset state where it answers none (`answers` says which). -/
def stateOf : Host.Outcome State Fault Refusal → State
  | .next t => t
  | .fault _ => State.reset
  | .refused _ => State.reset

/-- The outcome is a next state. -/
def answers : Host.Outcome State Fault Refusal → Bool
  | .next _ => true
  | .fault _ => false
  | .refused _ => false

/-- An outcome that answers is a next state: the state it answers. -/
theorem next_stateOf (o : Host.Outcome State Fault Refusal) (h : answers o = true) : o = .next (stateOf o) := by
  cases o with
  | next t => rfl
  | fault f => cases h
  | refused r => cases h

/-- The state after one cycle whose random byte is 0xA7. -/
def after (s : State) : State := stateOf (runCycle 0xA7 s)

/-- The columns of one display row that are set. -/
def litRow (s : State) (r : Nat) : List Nat :=
  (List.range s.cfg.dispW).filter (fun c => s.disp.pixel r c)

/-- T-41.1 JP. -/
theorem test_jp : (after (start 0x1234 [])).pc = 0x234 := by decide +kernel
/-- T-41.11, T-41.12 JP V0: the sum is not reduced. -/
theorem test_jpV0 : (after (start 0xB300 [(0, 4)])).pc = 0x304 ∧ (after (start 0xBFFF [(0, 2)])).pc = 0x1001 := by
  decide +kernel
/-- T-41.14 CALL: the pushed address is that after the CALL. -/
theorem test_call : (after (start 0x2300 [])).pc = 0x300 ∧ (after (start 0x2300 [])).entry 0 = 0x202 ∧
    (after (start 0x2300 [])).sp = 1 := by decide +kernel
/-- T-60.5 CALL on a full stack, timers frozen. -/
theorem test_call_full :
    let t := after { start 0x2300 [] with sp := 16, dt := 5, st := 1 }
    t.fault = .stackOverflow ∧ t.pc = 0x200 ∧ t.sp = 16 ∧ t.dt = 5 ∧ t.st = 1 ∧ t.tone = false := by decide +kernel
/-- T-41.15 RET. -/
theorem test_ret :
    let t := after { start 0x00EE [] with sp := 1, stack := State.reset.stack.set 0 0x208 }
    t.pc = 0x208 ∧ t.sp = 0 ∧ t.entry 0 = 0x208 := by decide +kernel
/-- T-60.4 RET on an empty stack. -/
theorem test_ret_empty :
    let t := after { start 0x00EE [] with dt := 5, st := 1 }
    t.fault = .stackUnderflow ∧ t.pc = 0x200 ∧ t.dt = 5 ∧ t.st = 1 ∧ t.tone = false := by decide +kernel
/-- T-41.3, T-41.4 SE. -/
theorem test_seImm : (after (start 0x3305 [(3, 5)])).pc = 0x204 ∧ (after (start 0x3306 [(3, 5)])).pc = 0x202 := by
  decide +kernel
/-- T-41.5, T-41.6 SNE. -/
theorem test_sneImm : (after (start 0x4305 [(3, 5)])).pc = 0x202 ∧ (after (start 0x4306 [(3, 5)])).pc = 0x204 := by
  decide +kernel
/-- T-41.7, T-41.8 SE of registers. -/
theorem test_seReg : (after (start 0x5120 [(1, 7), (2, 7)])).pc = 0x204 ∧
    (after (start 0x5120 [(1, 7), (2, 8)])).pc = 0x202 := by decide +kernel
/-- T-41.9, T-41.10 SNE of registers. -/
theorem test_sneReg : (after (start 0x9120 [(1, 7), (2, 8)])).pc = 0x204 ∧
    (after (start 0x9120 [(1, 7), (2, 7)])).pc = 0x202 := by decide +kernel
/-- T-42.26 LD. -/
theorem test_ldImm : (after (start 0x6A2C [])).readV 10 = 0x2C := by decide +kernel
/-- T-42.24 ADD immediate wraps and leaves the flag. -/
theorem test_addImm : (after (start 0x7120 [(1, 0xF0), (15, 7)])).readV 1 = 0x10 ∧
    (after (start 0x7120 [(1, 0xF0), (15, 7)])).readV 15 = 7 := by decide +kernel
/-- T-42.28 LD of a register. -/
theorem test_ldReg : (after (start 0x8120 [(1, 0x11), (2, 0x22)])).readV 1 = 0x22 := by decide +kernel
/-- T-42.29 OR leaves the flag. -/
theorem test_orReg : (after (start 0x8121 [(1, 0x0F), (2, 0xF0), (15, 9)])).readV 1 = 0xFF ∧
    (after (start 0x8121 [(1, 0x0F), (2, 0xF0), (15, 9)])).readV 15 = 9 := by decide +kernel
/-- T-42.30 AND. -/
theorem test_andReg : (after (start 0x8122 [(1, 0x3C), (2, 0x0F)])).readV 1 = 0x0C := by decide +kernel
/-- T-42.31 XOR. -/
theorem test_xorReg : (after (start 0x8123 [(1, 0xFF), (2, 0x0F)])).readV 1 = 0xF0 := by decide +kernel
/-- T-42.1 ADD with carry. -/
theorem test_addReg : (after (start 0x8124 [(1, 0xFA), (2, 0x0A)])).readV 1 = 4 ∧
    (after (start 0x8124 [(1, 0xFA), (2, 0x0A)])).readV 15 = 1 := by decide +kernel
/-- T-42.5, T-42.6 ADD with `VF` as destination and as source. -/
theorem test_addReg_flag : (after (start 0x8F14 [(15, 0xC8), (1, 0x64)])).readV 15 = 1 ∧
    (after (start 0x81F4 [(1, 0xFF), (15, 1)])).readV 1 = 0 := by decide +kernel
/-- T-42.7 SUB with borrow. -/
theorem test_sub : (after (start 0x8125 [(1, 5), (2, 7)])).readV 1 = 0xFE ∧
    (after (start 0x8125 [(1, 5), (2, 7)])).readV 15 = 0 := by decide +kernel
/-- T-42.8 SUB of equal values: no borrow. -/
theorem test_sub_equal : (after (start 0x8125 [(1, 7), (2, 7)])).readV 15 = 1 := by decide +kernel
/-- T-42.12 SUBN. -/
theorem test_subn : (after (start 0x8127 [(1, 5), (2, 7)])).readV 1 = 2 ∧
    (after (start 0x8127 [(1, 5), (2, 7)])).readV 15 = 1 := by decide +kernel
/-- T-42.16 SHR ignores `Y`; T-42.18 SHR VF. -/
theorem test_shr : (after (start 0x8126 [(1, 0x80), (2, 0xFF)])).readV 1 = 0x40 ∧
    (after (start 0x8F06 [(15, 3)])).readV 15 = 1 := by decide +kernel
/-- T-42.20 SHL. -/
theorem test_shl : (after (start 0x810E [(1, 0x81)])).readV 1 = 2 ∧ (after (start 0x810E [(1, 0x81)])).readV 15 = 1 := by
  decide +kernel
/-- T-42.33 RND with `rand = 0xA7`. -/
theorem test_rnd : (after (start 0xC30F [])).readV 3 = 7 := by decide +kernel
/-- T-43.1 LD I. -/
theorem test_ldI : (after (start 0xA2F0 [])).i = 0x2F0 := by decide +kernel
/-- T-43.3, T-43.4 ADD I at the end of memory. -/
theorem test_addI_flag :
    let t := after { start 0xF21E [(2, 1)] with i := 0xFFF }
    let u := after { start 0xF21E [(2, 0x0F)] with i := 0xFF0 }
    t.i = 0x1000 ∧ t.readV 15 = 1 ∧ u.i = 0xFFF ∧ u.readV 15 = 0 := by decide +kernel
/-- T-43.7 ADD I wraps at 16 bits; T-43.8 ADD I, VF. -/
theorem test_addI_wraps :
    let t := after { start 0xF21E [(2, 1)] with i := 0xFFFF }
    let u := after { start 0xFF1E [(15, 1)] with i := 0x0FFE }
    t.i = 0 ∧ t.readV 15 = 1 ∧ u.i = 0xFFF ∧ u.readV 15 = 0 := by decide +kernel
/-- T-43.13 LD F takes the low nibble. -/
theorem test_ldF : (after (start 0xF029 [(0, 0x1A)])).i = 0x32 ∧ (after (start 0xF029 [(0, 0xFF)])).i = 0x4B := by
  decide +kernel
/-- T-43.12 LD B across the top of memory. -/
theorem test_ldB :
    let t := after { start 0xF333 [(3, 123)] with i := 0xFFF }
    t.readByte 0xFFF = 1 ∧ t.readByte 0 = 2 ∧ t.readByte 1 = 3 ∧ t.readByte 2 = 0x90 ∧ t.i = 0xFFF := by decide +kernel
/-- T-43.5, first half: LD [I] stops at register X. -/
theorem test_ldMemVx :
    let t := after { start 0xF255 [(0, 0x11), (1, 0x22), (2, 0x33), (3, 0x44)] with i := 0x400 }
    t.readByte 0x400 = 0x11 ∧ t.readByte 0x401 = 0x22 ∧ t.readByte 0x402 = 0x33 ∧ t.readByte 0x403 = 0 ∧ t.i = 0x400 := by
  decide +kernel
/-- T-43.16 LD Vx, [I] of the first sixteen font bytes. -/
theorem test_ldVxMem :
    let t := after (start 0xFF65 [])
    t.readV 0 = 0xF0 ∧ t.readV 5 = 0x20 ∧ t.readV 9 = 0x70 ∧ t.readV 15 = 0xF0 ∧ t.i = 0 := by decide +kernel
/-- T-44.1, T-44.5 SKP: the low nibble names the key. -/
theorem test_skp : (after { start 0xE49E [(4, 7)] with key := State.reset.key.set 7 true }).pc = 0x204 ∧
    (after { start 0xE49E [(4, 0x1A)] with key := State.reset.key.set 10 true }).pc = 0x204 := by decide +kernel
/-- T-44.3, T-44.4 SKNP. -/
theorem test_sknp : (after { start 0xE4A1 [(4, 7)] with key := State.reset.key.set 7 true }).pc = 0x202 ∧
    (after (start 0xE4A1 [(4, 7)])).pc = 0x204 := by decide +kernel
/-- T-40.8 LD Vx, DT reads before the tick. -/
theorem test_ldVxDt : (after { start 0xF307 [] with dt := 0x2A }).readV 3 = 0x2A ∧
    (after { start 0xF307 [] with dt := 0x2A }).dt = 0x29 := by decide +kernel
/-- T-44.7 LD Vx, K waits, and the timers tick. -/
theorem test_ldVxK_waits : (after { start 0xF50A [] with dt := 4 }).pc = 0x200 ∧
    (after { start 0xF50A [] with dt := 4 }).dt = 3 := by decide +kernel
/-- T-44.8 LD Vx, K takes the lowest held key. -/
theorem test_ldVxK_lowest :
    let t := after { start 0xF50A [] with key := (State.reset.key.set 3 true).set 9 true }
    t.readV 5 = 3 ∧ t.pc = 0x202 := by decide +kernel
/-- T-40.2, T-40.4 LD DT, Vx, and the tick of the same cycle. -/
theorem test_ldDtVx : (after (start 0xF015 [(0, 3)])).dt = 2 ∧ (after { start 0xF015 [] with dt := 9 }).dt = 0 := by
  decide +kernel
/-- T-40.6, T-40.7 LD ST, Vx: the tone of the loading cycle. -/
theorem test_ldStVx : (after (start 0xF118 [(1, 1)])).st = 0 ∧ (after (start 0xF118 [(1, 1)])).tone = true ∧
    (after (start 0xF118 [])).tone = false := by decide +kernel
/-- T-45.11 CLS. -/
theorem test_cls :
    let t := after { start 0x00E0 [(15, 1)] with disp := State.reset.disp.flip 5 5, dt := 3 }
    litRow t 5 = [] ∧ t.dirty = true ∧ t.readV 15 = 1 ∧ t.dt = 2 := by decide +kernel
/-- T-45.3 DRW wraps at the right edge. -/
theorem test_drw_wraps :
    let t := after { (start 0xD121 [(1, 60), (2, 31)]).writeByte 0x300 0xFF with i := 0x300 }
    litRow t 31 = [0, 1, 2, 3, 60, 61, 62, 63] ∧ t.readV 15 = 0 ∧ t.dirty = true := by decide +kernel
/-- T-45.7 DRW reports a collision under a 1 bit and leaves pixels under 0 bits. -/
theorem test_drw_collides :
    let t := after { (start 0xD001 []).writeByte 0x300 0xF0 with
      i := 0x300, disp := (State.reset.disp.flip 0 3).flip 0 5 }
    litRow t 0 = [0, 1, 2, 5] ∧ t.readV 15 = 1 := by decide +kernel

/-! ### The cycle and the host -/

/-- T-60.2 an unknown word is recorded and skipped. -/
theorem test_unknown :
    let t := after (start 0x5121 [(1, 7), (2, 7)])
    t.pc = 0x202 ∧ t.unk = true ∧ t.unkWord = 0x5121 ∧ t.unkPc = 0x200 ∧ t.fault = .none := by decide +kernel
/-- T-40.10 an odd `pc` at the top of memory: the low byte comes from address 0. -/
theorem test_fetch_wraps :
    let t := after { ((State.reset.writeByte 0xFFF 0x6A).writeByte 0 0x2C) with pc := 0xFFF }
    t.readV 10 = 0x2C ∧ t.pc = 0x1001 := by decide +kernel
/-- T-40.11 `skip` wraps at 65536. -/
theorem test_pc_wraps : (after { (State.reset.writeByte 0xFFE 0x3A) with pc := 0xFFFE }).pc = 2 := by decide +kernel
/-- T-60.7, T-60.8, T-60.9 capacity of `load_program`: 3584 bytes. -/
theorem test_loadProgram : (State.reset.loadProgram (List.replicate 3585 0xAA)) = (.failure, State.reset) ∧
    (State.reset.loadProgram []) = (.success, State.reset) ∧
    (State.reset.loadProgram [0xAA]).2.readByte 0x200 = 0xAA ∧ (State.reset.loadProgram [0xAA]).2.readByte 0x1FF = 0 := by
  decide +kernel
/-- T-60.10 `set_key`, and an index that is no key (U-12). -/
theorem test_setKey : (stateOf (State.reset.setKey 7 true)).held 7 = true ∧
    answers (State.reset.setKey 16 true) = false := by decide +kernel
/-- `withFetchWord` with the word of ADD V1, V2: `step` runs it. -/
theorem test_withFetchWord : (stateOf (step ((State.reset.writeV 2 9).withFetchWord 16 0x8124))).readV 1 = 9 := by
  decide +kernel

/-! ### Another configuration: R7's smallest memory, display and stack -/

/-- 256 bytes of memory, a program area from 0x80, 8 x 15 pixels, one stack entry. -/
def smallParams : Config.Params :=
  { defaultParams with memSize := 256, progStart := 0x80, dispW := 8, dispH := 15, stackDepth := 1 }

/-- The smallest core's reset state with a word at its `PROG_START`. -/
def small (w : Word) : State := (State.resetOf smallParams).placeWord w

/-- R7: it can be configured; with `DISP_W = 7` it cannot. -/
theorem test_configure : configure smallParams = some (.uninitialized smallParams) ∧
    configure { smallParams with dispW := 7 } = none := by decide
/-- R291, R141: it starts at 0x80, and the second CALL in a row finds its stack full. -/
theorem test_small_call : (small 0x2080).pc = 0x80 ∧ (after (small 0x2080)).fault = .none ∧
    (after (after (small 0x2080))).fault = .stackOverflow := by decide +kernel
/-- R191: the range flag is that of 256 bytes. -/
theorem test_small_addI :
    let t := after (({ small 0xF11E with i := 0xFF } : State).writeV 1 1)
    t.i = 0x100 ∧ t.readV 15 = 1 := by decide +kernel
/-- R231: a row drawn at column 5 of 8 wraps; the glyph row is 11110000. -/
theorem test_small_draw : litRow (after ((small 0xD121).writeV 1 5)) 0 = [0, 5, 6, 7] := by decide +kernel
/-- R261: its capacity is 128 bytes. -/
theorem test_small_load : ((small 0).loadProgram (List.replicate 128 1)).1 = .success ∧
    ((small 0).loadProgram (List.replicate 129 1)).1 = .failure := by decide +kernel

/-! ### Witnesses: concrete states and operands that meet a statement's hypotheses together, clause by clause -/

/-- AddressesReduceModMemSize: both clauses, at the last address of memory. -/
theorem witness_addresses : State.reset.cfg.wf = true ∧ 0x1FFF % State.reset.cfg.memSize = 0xFFF % State.reset.cfg.memSize ∧
    0x1000 % State.reset.cfg.memSize ≠ 0xFFF % State.reset.cfg.memSize := by decide

/-- ResetEntryAndZeros, ResetMemoryHoldsFont, ResetHasCanonicalMemory: the default and the smallest parameters are
admissible, others are not. -/
theorem witness_params : defaultParams.wf = true ∧ smallParams.wf = true ∧
    ({ defaultParams with memSize := 1000 } : Config.Params).wf = false := by decide

/-- The invariant, a premise of several statements: the reset states of two configurations have it. -/
theorem witness_inv : State.reset.Inv ∧ (State.resetOf smallParams).Inv :=
  ⟨⟨by decide, by decide, by decide, by decide, by decide +kernel⟩, ⟨by decide, by decide, by decide, by decide, by decide⟩⟩

/-- StepRunsDecodedInstruction: a faulted core, an unknown word, a decoded instruction. -/
theorem witness_step : ({ State.reset with fault := .stackOverflow } : State).fault ≠ .none ∧
    (State.reset.fault = .none ∧ decodeWord State.reset.fetch = none) ∧
    ((start 0x1200 []).fault = .none ∧ decodeWord (start 0x1200 []).fetch = some (.jp 0x200)) := by decide +kernel

/-- DelayTimerTicksEveryCycle and SoundTimerTickDrivesTone: both timers at 1, and both at 0. -/
theorem witness_tick : ∀ b ∈ [0, 1], ∃ (rand : Byte) (s u t : State), s.healthy ∧
    (s.supplyRand rand).afterExecute = .next u ∧ u.healthy ∧ runCycle rand s = .next t ∧ u.dt.toNat = b ∧ u.st.toNat = b := by
  intro b hb
  obtain rfl | rfl : b = 0 ∨ b = 1 := by simpa using hb
  · exact ⟨0, start 0x6A2C [], _, _, by unfold State.healthy; decide +kernel, next_stateOf _ (by decide +kernel),
      by unfold State.healthy; decide +kernel, next_stateOf _ (by decide +kernel), by decide +kernel, by decide +kernel⟩
  · exact ⟨0, { start 0x6A2C [] with dt := 1, st := 1 }, _, _, by unfold State.healthy; decide +kernel,
      next_stateOf _ (by decide +kernel), by unfold State.healthy; decide +kernel, next_stateOf _ (by decide +kernel),
      by decide +kernel, by decide +kernel⟩

/-- The host clauses of DelayTimerTicksEveryCycle, KeysChangeOnlyByHost and PixelsChangeOnlyByClearAndDraw. -/
theorem witness_host_move : ∃ (s t : State) (m : HostOp) (r : Reply), (∀ b, m ≠ .runCycle b) ∧ m ≠ .initialise ∧
    (∀ k b, m ≠ .setKey k b) ∧ hostStep m (.live s) = .next (.live t, r) :=
  ⟨State.reset, _, .displayAck, _, nofun, nofun, nofun, rfl⟩

/-- TimerLoadTicksInItsOwnCycle: its three instructions. -/
theorem witness_timerLoad : (start 0xF015 [(0, 1)]).healthy ∧
    decodeWord (start 0xF015 [(0, 1)]).fetch = some (.ldDtVx 0) ∧ decodeWord (start 0xF018 []).fetch = some (.ldStVx 0) ∧
    decodeWord (start 0xF007 []).fetch = some (.ldVxDt 0) := by unfold State.healthy; decide +kernel

/-- StackFaultFreezesTheCore, OnlyCallAndRetFault: a CALL on a full stack. -/
theorem witness_overflow : ∃ s t : State, s.healthy ∧ decodeWord s.fetch = some (.call 0x300) ∧ s.sp = s.cfg.stackDepth ∧
    step s = .next t ∧ ¬ t.healthy :=
  ⟨{ start 0x2300 [] with sp := 16 }, _, by unfold State.healthy; decide +kernel, by decide +kernel, by decide +kernel,
    next_stateOf _ (by decide +kernel), by unfold State.healthy; decide +kernel⟩

/-- StackFaultFreezesTheCore, OnlyCallAndRetFault: a RET on an empty stack. -/
theorem witness_underflow : ∃ s t : State, s.healthy ∧ decodeWord s.fetch = some .ret ∧ s.sp = 0 ∧
    step s = .next t ∧ ¬ t.healthy :=
  ⟨start 0x00EE [], _, by unfold State.healthy; decide +kernel, by decide +kernel, by decide +kernel,
    next_stateOf _ (by decide +kernel), by unfold State.healthy; decide +kernel⟩

/-- StackFaultFreezesTheCore: a core already faulted. -/
theorem witness_faulted : ¬ ({ State.reset with fault := .stackUnderflow } : State).healthy := by
  unfold State.healthy; decide

/-- UnknownOpcodeIsSkippedAndReported: the reset state itself. -/
theorem witness_unknown : State.reset.healthy ∧ unknownOpcode State.reset.fetch = true := by
  unfold State.healthy; decide +kernel

/-- ParkedStateStaysParked: a jump to itself. -/
theorem witness_parked : (start 0x1200 []).parked := by unfold State.parked; decide +kernel

/-- ParkedStateStaysParked: the same at the last even address. -/
theorem witness_parked_top : (({ State.reset with pc := 0xFFE } : State).placeWord 0x1FFE).parked := by
  unfold State.parked; decide +kernel

/-- CallPushesNextAndJumps: one entry free, and none. -/
theorem witness_call : ({ State.reset with sp := 15 } : State).Inv ∧
    ({ State.reset with sp := 15 } : State).sp < State.reset.cfg.stackDepth ∧
    ({ State.reset with sp := 16 } : State).sp = State.reset.cfg.stackDepth :=
  ⟨{ witness_inv.1 with sp := by decide }, by decide, by decide⟩

/-- ReturnPopsIntoPc: one entry, and none. -/
theorem witness_ret : 0 < ({ State.reset with sp := 1 } : State).sp ∧ State.reset.sp = 0 := by decide

/-- A CALL at 0x200 to a RET at 0x300, with room for one more entry. -/
def callRet : State := { (start 0x2300 []).writeByte 0x301 0xEE with sp := 15 }

/-- CallThenReturnResumesAfterCall. -/
theorem witness_callRet : ∃ t, callRet.Inv ∧ callRet.healthy ∧ callRet.sp < callRet.cfg.stackDepth ∧
    decodeWord callRet.fetch = some (.call 0x300) ∧ step callRet = .next t ∧ decodeWord t.fetch = some .ret :=
  ⟨_, ⟨by decide +kernel, by decide +kernel, by decide +kernel, by decide +kernel, by decide +kernel⟩,
    by unfold State.healthy; decide +kernel, by decide +kernel, by decide +kernel, next_stateOf _ (by decide +kernel),
    by decide +kernel⟩

/-- AddSetsCarry, SubtractSetsNotBorrow, ShiftsReportTheBitShiftedOut: a destination that is not the flag register. -/
theorem witness_destination : (14 : Reg) ≠ VF := by decide

/-- RandomIsMasked at the level of a cycle. -/
theorem witness_random : (start 0xC30F []).healthy ∧ decodeWord (start 0xC30F []).fetch = some (.rnd 3 0x0F) := by
  unfold State.healthy; decide +kernel

/-- FlagIsZeroOrOne: ADD VF, V1. -/
theorem witness_flag : ∃ (i : Instr) (s t : State), i.definesFlag = true ∧ exec i s = .next t :=
  ⟨.addReg 15 1, State.reset, _, rfl, rfl⟩

/-- OnlyNamedRegistersChange: V2 under LD V1, [I]. -/
theorem witness_named : ∃ (i : Instr) (s t : State) (r : Reg), exec i s = .next t ∧ i.writesReg r = false :=
  ⟨.ldVxMem 1, State.reset, _, 2, rfl, rfl⟩

/-- OnlyListedInstructionsWriteEachPiece: a jump writes none of the pieces. -/
theorem witness_listed : ∃ (i : Instr) (s t : State), exec i s = .next t ∧ i.writesI = false ∧ i.writesMem = false ∧
    i.usesStack = false ∧ i.writesDisp = false ∧ i.writesDt = false ∧ i.writesSt = false :=
  ⟨.jp 0, State.reset, _, rfl, rfl, rfl, rfl, rfl, rfl, rfl⟩

/-- DecimalDigitsAreStored, DumpStoresRegisters: an address that is not stored to, next to one that is. -/
theorem witness_unstored : State.reset.cfg.wf = true ∧
    (∀ k < 3, 3 % State.reset.cfg.memSize ≠ State.reset.dataAddr k % State.reset.cfg.memSize) ∧
    (∀ k : Reg, k ≤ 15 → 16 % State.reset.cfg.memSize ≠ State.reset.dataAddr k.val % State.reset.cfg.memSize) := by decide

/-- LoadUndoesDump: `V0` is overwritten between the dump and the load. -/
theorem witness_dump : ∃ s t u : State, s.cfg.wf = true ∧ exec (.ldMemVx 15) s = .next t ∧ u.cfg = t.cfg ∧
    u.mem = t.mem ∧ u.i = t.i ∧ u = t.writeV 0 9 :=
  have ⟨t, ht⟩ : ∃ t, exec (.ldMemVx 15) State.reset = .next t := ⟨_, rfl⟩
  ⟨_, t, t.writeV 0 9, by decide, ht, rfl, rfl, rfl, rfl⟩

/-- KeySkips: the highest key. -/
theorem witness_key : ∃ (x k : Reg) (s : State), k.val = (s.readV x &&& 0x0F).toNat :=
  ⟨4, 15, start 0 [(4, 0xFF)], by decide +kernel⟩

/-- KeyWaitStoresLowestHeldKey: only the highest key held; none held. -/
theorem witness_keyWait : (({ State.reset with key := State.reset.key.set 15 true } : State).held 15 = true ∧
    ∀ j < (15 : Reg), ({ State.reset with key := State.reset.key.set 15 true } : State).held j = false) ∧
    ∀ k, State.reset.held k = false := by decide

/-- DrawXorsTheSprite: glyph 0 on a blank display covers column 3 of row 0 and not column 4. -/
theorem witness_draw : State.reset.Inv ∧ State.reset.spriteCovers 0 0 1 0 3 ∧ ¬ State.reset.spriteCovers 0 0 1 0 4 :=
  ⟨witness_inv.1, by unfold State.spriteCovers; decide +kernel, by unfold State.spriteCovers; decide +kernel⟩

/-- DrawXorsTheSprite: on a blank display no covered pixel is set. -/
theorem witness_draw_clear (r c : Nat) : (State.resetOf smallParams).spriteCovers 0 0 1 r c →
    (State.resetOf smallParams).disp.pixel r c = false := by
  rintro ⟨j, hj, k, hk, -, rfl, rfl⟩
  have : ∀ j < 1, ∀ k < 8, (State.resetOf smallParams).disp.pixel
      ((0 + j) % (State.resetOf smallParams).cfg.dispH) ((0 + k) % (State.resetOf smallParams).cfg.dispW) = false := by
    decide
  exact this j hj k hk

/-- DrawXorsTheSprite: with column 3 of row 0 set there is a collision. -/
theorem witness_draw_collides : ∃ r c, State.reset.spriteCovers 0 0 1 r c ∧
    ({ State.reset with disp := State.reset.disp.flip 0 3 } : State).disp.pixel r c = true :=
  ⟨0, 3, by unfold State.spriteCovers; decide +kernel, by decide +kernel⟩

/-- DrawTwiceRestoresTheDisplay: its premises on a run are met by every state with the invariant. -/
theorem witness_drawTwice (n : Nibble) : ∃ s t u : State, s.Inv ∧ (0 : Reg) ≠ VF ∧ (14 : Reg) ≠ VF ∧
    exec (.drw 0 14 n) s = .next t ∧ exec (.drw 0 14 n) t = .next u :=
  have answered (s : State) : ∃ t, exec (.drw 0 14 n) s = .next t := ⟨_, rfl⟩
  have ⟨t, ht⟩ := answered State.reset
  have ⟨u, hu⟩ := answered t
  ⟨_, t, u, witness_inv.1, by decide, by decide, ht, hu⟩

/-- KeysChangeOnlyByHost, StepKeepsCanonicalMemory: a step that answers, from a state with the invariant. -/
theorem witness_step_inv : ∃ s t : State, s.Inv ∧ step s = .next t :=
  ⟨start 0xF055 [(0, 9)], _,
    ⟨by decide +kernel, by decide +kernel, by decide +kernel, by decide +kernel, by decide +kernel⟩,
    next_stateOf _ (by decide +kernel)⟩

/-- PixelsChangeOnlyByClearAndDraw: a step that changes pixels. -/
theorem witness_pixels : ∃ s t : State, step s = .next t ∧ t.disp ≠ s.disp :=
  ⟨{ start 0x00E0 [] with disp := State.reset.disp.flip 5 5 }, _, next_stateOf _ (by decide +kernel), by decide +kernel⟩

/-- HostSessionKeepsCanonicalMemory: from a core never initialized, and from the reset state. -/
theorem witness_session : (∃ d, (Instance.uninitialized smallParams).Inv ∧
      hostRun [.initialise, .setKey 3 true, .displayAck] (.uninitialized smallParams) = .next d) ∧
    ∃ d, (Instance.live State.reset).Inv ∧ hostRun [.setKey 0 true] (.live State.reset) = .next d :=
  ⟨⟨_, by unfold Instance.Inv; decide, rfl⟩, ⟨_, witness_inv.1, rfl⟩⟩

/-- HiddenStateDoesNotReachPrograms: two states that differ in `ST`, `DIRTY` and `UNK`. -/
theorem witness_hidden : ∃ s s' t t' : State, s ≠ s' ∧ s.visible = s'.visible ∧ step s = .next t ∧ step s' = .next t' :=
  ⟨State.reset, { State.reset with st := 5, dirty := true, unk := true }, _, _, by decide +kernel, rfl,
    next_stateOf _ (by decide +kernel), next_stateOf _ (by decide +kernel)⟩

/-- DeadStackEntriesAreNeverRead: a RET with one live entry, the entry above it different. -/
theorem witness_dead : ∃ s s' t t' : State, s ≠ s' ∧ s.sameLiveStack s' ∧ step s = .next t ∧ step s' = .next t' :=
  ⟨{ start 0x00EE [] with sp := 1 }, { start 0x00EE [] with sp := 1, stack := State.reset.stack.set 1 0x300 }, _, _,
    by decide +kernel, ⟨rfl, rfl, by decide +kernel⟩, next_stateOf _ (by decide +kernel), next_stateOf _ (by decide +kernel)⟩

/-- ReducedPcIsIndistinguishable: `pc` 0x200 and 0x1200. -/
theorem witness_reduced : ∃ s s' t t' : State, s ≠ s' ∧ s.cfg.wf = true ∧ s.sameReducedPc s' ∧ step s = .next t ∧ step s' = .next t' :=
  ⟨start 0x2300 [], { start 0x2300 [] with pc := 0x1200 }, _, _, by decide +kernel, by decide +kernel,
    ⟨rfl, by unfold sameReduced; decide +kernel, by unfold sameReduced; decide +kernel, rfl, fun _ => rfl⟩,
    next_stateOf _ (by decide +kernel), next_stateOf _ (by decide +kernel)⟩

/-- EncodeInvertsDecode. -/
theorem witness_encode : decodeWord 0xFFFF = none ∧ ∃ i, decodeWord 0xDFFF = some i := ⟨by decide, _, rfl⟩

/-- GlyphAddress, DumpStoresRegisters: parameters within R7. -/
theorem witness_cfg : State.reset.cfg.wf = true := by decide

/-- PlacedWordIsFetchedNext. -/
theorem witness_placed : State.reset.cfg.wf = true ∧ 0xFFFF < 65536 := by decide

/-- UninitializedCoreHasNoMove. -/
theorem witness_uninitialized : HostOp.status ≠ .initialise := nofun

/-- LoadProgramCopiesOrFails: the longest program that fits, and one byte more. -/
theorem witness_load : State.reset.cfg.wf = true ∧
    State.reset.cfg.memSize - State.reset.cfg.progStart < (List.replicate 3585 (0xAA : Byte)).length ∧
    (List.replicate 3584 (0xAA : Byte)).length ≤ State.reset.cfg.memSize - State.reset.cfg.progStart := by decide +kernel

/-- SetKeyWritesOneKey: the lowest and the highest key. -/
theorem witness_setKey : 0 < 16 ∧ 15 < 16 := by decide

end Sys2Proof.Tests
end

section
/-! PROOFS. The family of 10_state.md: what no instruction writes, and from it that the engine only reads the input
table (R35). -/

namespace Sys2Proof.Machine

/-! ### What no instruction writes -/

/-- The execute part of an instruction writes at most these pieces (10_state.md section 1, its written-by column): the
configuration, the input table, the unknown-opcode record and the random input are not among them. -/
def State.frameExec (s t : State) : Prop :=
  t = { s with
    v := t.v, i := t.i, pc := t.pc, stack := t.stack, sp := t.sp, dt := t.dt, st := t.st, mem := t.mem, disp := t.disp,
    dirty := t.dirty, tone := t.tone, fault := t.fault }

theorem State.frameExec.key_eq {s t : State} (h : s.frameExec t) : t.key = s.key := by
  rw [h]

theorem execCall_frame {nnn : Addr12} {s t : State} (h : execCall nnn s = .next t) : s.frameExec t := by
  by_cases full : s.sp = s.cfg.stackDepth
  · rw [execCall, s.push_of_full _ full] at h
    cases h; rfl
  · rw [execCall, s.push_of_ne _ full] at h
    cases h; rfl

theorem execRet_frame {s t : State} (h : execRet s = .next t) : s.frameExec t := by
  by_cases empty : s.sp = 0
  · rw [execRet, s.pop_of_empty empty] at h
    cases h; rfl
  · rw [execRet, s.pop_of_pos (Nat.pos_of_ne_zero empty)] at h
    cases h; rfl

theorem execLdVxK_frame {x : Reg} {s t : State} (h : execLdVxK x s = .next t) : s.frameExec t := by
  rw [execLdVxK] at h
  cases hk : s.firstHeld with
  | none => rw [hk] at h; cases h; rfl
  | some k => rw [hk] at h; cases h; rfl

theorem execLdMemVx_frame {x : Reg} {s t : State} (h : execLdMemVx x s = .next t) : s.frameExec t := by
  rw [execLdMemVx, s.dumpRegs_frame] at h
  cases h; rfl

theorem execLdVxMem_frame {x : Reg} {s t : State} (h : execLdVxMem x s = .next t) : s.frameExec t := by
  rw [execLdVxMem, s.loadRegs_frame] at h
  cases h; rfl

/-- No instruction writes outside `frameExec`. Apart from the five whose answer is a case split or a recursion, an
instruction's next state is a chain of updates of the fields named there. -/
theorem exec_frame {i : Instr} {s t : State} (h : exec i s = .next t) : s.frameExec t := by
  cases i with
  | call nnn => exact execCall_frame h
  | ret => exact execRet_frame h
  | ldVxK x => exact execLdVxK_frame h
  | ldMemVx x => exact execLdMemVx_frame h
  | ldVxMem x => exact execLdVxMem_frame h
  | _ => cases h; rfl

/-! ### The input table along a cycle and across the host's operations (R35) -/

theorem State.afterExecute_key {s t : State} (h : s.afterExecute = .next t) : t.key = s.key := by
  cases hd : decodeWord s.fetch with
  | none =>
    rw [State.afterExecute_of_none hd] at h
    cases h; rfl
  | some i =>
    rw [State.afterExecute_of_some hd] at h
    exact (exec_frame h).key_eq

@[simp] theorem State.finish_key (t : State) : t.finish.key = t.key := by
  by_cases ht : t.fault = .none
  · rw [State.finish_of_healthy ht, State.tick_key]
  · rw [State.finish_of_faulted ht]

theorem runCycle_key {rand : Byte} {s t : State} (h : runCycle rand s = .next t) : t.key = s.key := by
  obtain ⟨-, rfl⟩ | ⟨-, u, hu, rfl⟩ := runCycle_cases h
  · rw [State.faultedCycle_key, State.supplyRand_key]
  · rw [State.finish_key, State.afterExecute_key hu, State.supplyRand_key]

theorem step_key {s t : State} (h : step s = .next t) : t.key = s.key :=
  (runCycle_key (s := s.countDraw) h).trans s.countDraw_key

@[simp] theorem State.loadProgram_key (s : State) (bytes : List Byte) : (s.loadProgram bytes).2.key = s.key := by
  unfold State.loadProgram
  split <;> rfl

/-- A move made of an outcome on a state leads to the state of that outcome. -/
theorem eq_next_of_moveOf {o : Host.Outcome State Fault Refusal} {t : State} {r : Reply}
    (h : moveOf o = .next (.live t, r)) : o = .next t := by
  cases o with
  | next u => cases h; rfl
  | fault f => cases h
  | refused f => cases h

theorem State.move_key {s t : State} {m : HostOp} {r : Reply} (notSetKey : ∀ k b, m ≠ .setKey k b)
    (notInitialise : m ≠ .initialise) (h : s.move m = .next (.live t, r)) : t.key = s.key := by
  cases m with
  | initialise => exact absurd rfl notInitialise
  | setKey k b => exact absurd rfl (notSetKey k b)
  | runCycle rand => exact runCycle_key (eq_next_of_moveOf h)
  | loadProgram bytes => cases h; exact s.loadProgram_key bytes
  | displayAck | displaySnapshot | shouldTone | status => cases h; rfl

/-- Settles O38: a step's execute part stays inside `frameExec`, and the rest of the cycle and the host's other
operations do not write the input table. -/
theorem keysChangeOnlyByHost : Obligations.KeysChangeOnlyByHost :=
  ⟨fun _ _ => step_key, fun _ _ _ _ => State.move_key⟩

end Sys2Proof.Machine

end

section
/-! PROOFS. The family of 20_memory.md: the fetched word (R62) and the reduction of addresses (R61). -/

namespace Sys2Proof.Machine

/-- Settles O3: the fetched word is the two bytes read at `pc` and `pc + 1`, the first the high-order one. -/
theorem fetchIsBigEndian : Obligations.FetchIsBigEndian :=
  State.fetch_toNat

/-! ### Addresses (R61) -/

/-- An admissible `MEM_SIZE` divides `2 ^ 16`, so it is a power of two itself. -/
theorem memSize_eq_two_pow {p : Config.Params} (h : p.wf = true) : ∃ k, p.memSize = 2 ^ k := by
  obtain ⟨-, -, hdvd, -⟩ := params_bounds h
  obtain ⟨k, -, hk⟩ := (Nat.dvd_prime_pow (m := 16) Nat.prime_two).mp hdvd
  exact ⟨k, hk⟩

/-- Reduction modulo an admissible `MEM_SIZE` is a mask (R61). -/
theorem mod_memSize_eq_and {p : Config.Params} (h : p.wf = true) (a : Nat) :
    a % p.memSize = a &&& (p.memSize - 1) := by
  obtain ⟨k, hk⟩ := memSize_eq_two_pow h
  rw [hk, Nat.and_two_pow_sub_one_eq_mod]

theorem State.readByte_writeByte_same (s : State) {a c : Nat} (b : Byte) (h : c % s.cfg.memSize = a % s.cfg.memSize) :
    (s.writeByte a b).readByte c = b := by
  rw [State.readByte_writeByte, if_pos h]

theorem State.readByte_writeByte_other (s : State) {a c : Nat} (b : Byte) (h : c % s.cfg.memSize ≠ a % s.cfg.memSize) :
    (s.writeByte a b).readByte c = s.readByte c := by
  rw [State.readByte_writeByte, if_neg h]

/-- Settles O4: reads and writes go through the reduced address, and a power of two makes the reduction a mask. -/
theorem addressesReduceModMemSize : Obligations.AddressesReduceModMemSize :=
  fun s a _ b hp =>
    ⟨(s.readByte_mod a).symm, mod_memSize_eq_and hp a, s.readByte_writeByte_same b, s.readByte_writeByte_other b, rfl⟩

end Sys2Proof.Machine

end

section
/-! PROOFS. The family of 40_cycle.md: the timer tick of a completed cycle (R124, R125), and that the host's operations
between cycles leave the timers alone. -/

namespace Sys2Proof.Machine

/-! ### The end of a completed cycle -/

/-- A cycle that neither starts nor becomes faulted ends in the tick of what its instruction left (R120 steps 4 to 6). -/
theorem runCycle_eq_tick {rand : Byte} {s u t : State} (hs : s.healthy)
    (hu : (s.supplyRand rand).afterExecute = .next u) (healthy : u.healthy) (h : runCycle rand s = .next t) :
    t = u.tick := by
  have ends : runCycle rand s = .next u.tick := by
    rw [runCycle_of_healthy rand hs hu, State.finish_of_healthy healthy]
  exact Host.Outcome.next.inj (h.symm.trans ends)

/-- A count down in two cases: one less above 0, and 0 at 0. -/
theorem countDown_toNat_cases (b : Byte) :
    (0 < b.toNat → (countDown b).toNat = b.toNat - 1) ∧ (b.toNat = 0 → (countDown b).toNat = 0) :=
  ⟨fun _ => countDown_toNat b, fun zero => by rw [countDown_toNat, zero]⟩

/-! ### What the host's operations between cycles write -/

/-- The host's operations between cycles, the reset apart, write at most memory, the input table and the display's
changed indicator (R261, R263, R265; 10_state.md section 1, its written-by column). -/
def State.frameHost (s t : State) : Prop :=
  t = { s with mem := t.mem, key := t.key, dirty := t.dirty }

theorem State.frameHost.timers_eq {s t : State} (h : s.frameHost t) : t.dt = s.dt ∧ t.st = s.st := by
  rw [h]
  exact ⟨rfl, rfl⟩

theorem State.loadProgram_frame (s : State) (bytes : List Byte) : s.frameHost (s.loadProgram bytes).2 := by
  by_cases tooLong : s.cfg.memSize - s.cfg.progStart < bytes.length
  · rw [State.loadProgram, if_pos tooLong]; rfl
  · rw [State.loadProgram, if_neg tooLong]; rfl

theorem State.setKey_frame {s t : State} {index : Nat} {pressed : Bool} (h : s.setKey index pressed = .next t) :
    s.frameHost t := by
  by_cases inRange : index < 16
  · rw [State.setKey, dif_pos inRange] at h
    cases h; rfl
  · rw [State.setKey, dif_neg inRange] at h
    cases h

theorem State.move_frame {s t : State} {m : HostOp} {r : Reply} (notRunCycle : ∀ b, m ≠ .runCycle b)
    (notInitialise : m ≠ .initialise) (h : s.move m = .next (.live t, r)) : s.frameHost t := by
  cases m with
  | initialise => exact absurd rfl notInitialise
  | runCycle rand => exact absurd rfl (notRunCycle rand)
  | setKey index pressed => exact State.setKey_frame (eq_next_of_moveOf h)
  | loadProgram bytes => cases h; exact s.loadProgram_frame bytes
  | displayAck | displaySnapshot | shouldTone | status => cases h; rfl

/-! ### The timers -/

/-- Settles O7: a completed cycle ends in the tick, which counts `DT` down, and the host's operations between cycles
stay inside `frameHost`. -/
theorem delayTimerTicksEveryCycle : Obligations.DelayTimerTicksEveryCycle := by
  refine ⟨fun rand s u t hs hu healthy h => ?_, fun s t m r notRunCycle notInitialise h => ?_⟩
  · rw [runCycle_eq_tick hs hu healthy h, State.tick_dt]
    exact countDown_toNat_cases u.dt
  · exact (State.move_frame notRunCycle notInitialise h).timers_eq

/-- Settles O8: a completed cycle ends in the tick, which sets `TONE` from `ST` as the instruction left it and then
counts `ST` down. -/
theorem soundTimerTickDrivesTone : Obligations.SoundTimerTickDrivesTone := by
  intro rand s u t hs hu healthy h
  rw [runCycle_eq_tick hs hu healthy h, State.tick_st]
  exact ⟨u.tick_tone_iff, countDown_toNat_cases u.st⟩

end Sys2Proof.Machine

end

section
/-! PROOFS. The family of 41_control_flow.md: what a jump and a skip leave unchanged, the target of the indexed jump
(R147), and the one rule behind every conditional skip (R123, R143). -/

namespace Sys2Proof.Machine

/-! ### Writing `pc` alone -/

theorem State.framePc_setPc (s : State) (a : Word) : s.framePc (s.setPc a) :=
  ⟨rfl, fun c => s.readByte_setPc a c⟩

theorem State.framePc_skipIf (s : State) (cond : Bool) : s.framePc (s.skipIf cond) := by
  rw [State.skipIf_eq]
  exact s.framePc_setPc _

theorem State.skipIf_decide_pc (s : State) (P : Prop) [Decidable P] :
    (s.skipIf (decide P)).pc = if P then s.pc + 4 else s.pc + 2 := by
  simp only [State.skipIf_eq, State.setPc_pc, decide_eq_true_eq]

/-! ### Jumps (R140, R147) -/

/-- The target of `JP V0, NNN`: the zero-extended operands are added in the 16 bits of `pc`. -/
theorem addrOf_add_byte_toNat (nnn : Addr12) (b : Byte) :
    (addrOf nnn + b.setWidth 16).toNat = (nnn.toNat + b.toNat) % 65536 := by
  rw [BitVec.toNat_add, addrOf_toNat, BitVec.toNat_setWidth_of_le (by decide)]

/-- Settles O14: either jump is one write of `pc`. -/
theorem jumpsSetPc : Obligations.JumpsSetPc :=
  fun nnn s =>
    ⟨⟨s.setPc (addrOf nnn), rfl, addrOf_toNat nnn, s.framePc_setPc _⟩,
      ⟨s.setPc (addrOf nnn + (s.readV 0).setWidth 16), rfl, addrOf_add_byte_toNat nnn (s.readV 0), s.framePc_setPc _⟩⟩

/-! ### Skips (R143 to R146) -/

/-- An instruction whose meaning is a skip on `P` goes to `skip` if `P` holds and to `next` if not, and writes nothing
but `pc`. -/
theorem exec_of_eq_skipIf {i : Instr} {s : State} {P : Prop} [Decidable P]
    (h : exec i s = .next (s.skipIf (decide P))) :
    ∃ t, exec i s = .next t ∧ t.pc = (if P then s.pc + 4 else s.pc + 2) ∧ s.framePc t :=
  ⟨s.skipIf (decide P), h, s.skipIf_decide_pc P, s.framePc_skipIf _⟩

/-- Settles O15: each of the four is a skip on its own condition. -/
theorem registerSkips : Obligations.RegisterSkips :=
  fun _ _ _ _ => ⟨exec_of_eq_skipIf rfl, exec_of_eq_skipIf rfl, exec_of_eq_skipIf rfl, exec_of_eq_skipIf rfl⟩

end Sys2Proof.Machine

end

section
/-! PROOFS. The family of 42_alu.md: what the two ways to end an instruction of the family (`State.result`,
`State.resultFlag`) write and leave unchanged, the results and flags as numbers, and the random byte of a cycle. -/

namespace Sys2Proof.Machine

/-! ### A result without a flag (R160 to R165, R171) -/

theorem State.readV_result_self (s : State) (x : Reg) (b : Byte) : (s.result x b).readV x = b := by
  rw [State.result_eq, State.readV_setPc, State.readV_writeV, if_pos rfl]

/-- A result goes to `pc + 2` and writes no other register, `VF` included, and nothing else. -/
theorem State.result_frame (s : State) (x : Reg) (b : Byte) :
    (s.result x b).pc = s.pc + 2 ∧ s.sameRegsBut (s.result x b) (· = x) ∧ s.frameRegs (s.result x b) := by
  refine ⟨rfl, fun y other => ?_, rfl, fun _ => rfl⟩
  rw [State.result_eq, State.readV_setPc, State.readV_writeV, if_neg other]

/-- An instruction whose meaning is a result writes it to its destination, and nothing else but `pc`. -/
theorem exec_of_eq_result {i : Instr} {s : State} {x : Reg} {b : Byte} (h : exec i s = .next (s.result x b)) :
    ∃ t, exec i s = .next t ∧ t.readV x = b ∧ t.pc = s.pc + 2 ∧ s.sameRegsBut t (· = x) ∧ s.frameRegs t :=
  ⟨s.result x b, h, s.readV_result_self x b, s.result_frame x b⟩

/-- Settles O19: either is a result, the sum wrapped at 8 bits. -/
theorem loadAndAddImmediate : Obligations.LoadAndAddImmediate :=
  fun x nn s =>
    ⟨exec_of_eq_result rfl,
      ⟨s.result x (s.readV x + nn), rfl, by rw [State.readV_result_self, BitVec.toNat_add], s.result_frame x _⟩⟩

/-- Settles O20: each of the four is a result. -/
theorem copyAndLogic : Obligations.CopyAndLogic :=
  fun _ _ _ => ⟨exec_of_eq_result rfl, exec_of_eq_result rfl, exec_of_eq_result rfl, exec_of_eq_result rfl⟩

/-! ### A result and then a flag (R166 to R170, R173) -/

/-- The flag is written second, so it stands whatever the destination is (D12). -/
theorem State.readV_resultFlag_VF (s : State) (x : Reg) (b : Byte) (flag : Bool) :
    (s.resultFlag x b flag).readV VF = if flag then 1 else 0 := by
  rw [State.resultFlag_eq, State.readV_setPc, State.readV_writeV, if_pos rfl]

/-- The result stands in every destination but the flag register. -/
theorem State.readV_resultFlag_self (s : State) {x : Reg} (b : Byte) (flag : Bool) (notFlag : x ≠ VF) :
    (s.resultFlag x b flag).readV x = b := by
  rw [State.resultFlag_eq, State.readV_setPc, State.readV_writeV, if_neg notFlag, State.readV_writeV, if_pos rfl]

/-- A result with a flag goes to `pc + 2` and writes no register but its destination and `VF`, and nothing else. -/
theorem State.resultFlag_frame (s : State) (x : Reg) (b : Byte) (flag : Bool) :
    (s.resultFlag x b flag).pc = s.pc + 2 ∧ s.sameRegsBut (s.resultFlag x b flag) (fun r => r = x ∨ r = VF) ∧
      s.frameRegs (s.resultFlag x b flag) := by
  refine ⟨rfl, fun y other => ?_, rfl, fun _ => rfl⟩
  obtain ⟨notDest, notFlag⟩ := not_or.mp other
  rw [State.resultFlag_eq, State.readV_setPc, State.readV_writeV, if_neg notFlag, State.readV_writeV, if_neg notDest]

/-- An instruction whose meaning is a result with a flag writes the result to its destination, unless that is `VF`, the
flag to `VF`, and nothing else but `pc`. -/
theorem exec_of_eq_resultFlag {i : Instr} {s : State} {x : Reg} {b : Byte} {flag : Bool} {n : Nat}
    (h : exec i s = .next (s.resultFlag x b flag)) (hb : b.toNat = n) :
    ∃ t, exec i s = .next t ∧ (x ≠ VF → (t.readV x).toNat = n) ∧ t.readV VF = (if flag then 1 else 0) ∧
      t.pc = s.pc + 2 ∧ s.sameRegsBut t (fun r => r = x ∨ r = VF) ∧ s.frameRegs t :=
  ⟨_, h, fun notFlag => by rw [s.readV_resultFlag_self b flag notFlag, hb], s.readV_resultFlag_VF x b flag,
    s.resultFlag_frame x b flag⟩

/-- The same of a flag that is a comparison (R166, R167, R169). -/
theorem exec_of_eq_resultFlag_decide {i : Instr} {s : State} {x : Reg} {b : Byte} {n : Nat} {P : Prop} [Decidable P]
    (h : exec i s = .next (s.resultFlag x b (decide P))) (hb : b.toNat = n) :
    ∃ t, exec i s = .next t ∧ (x ≠ VF → (t.readV x).toNat = n) ∧ t.readV VF = (if P then 1 else 0) ∧
      t.pc = s.pc + 2 ∧ s.sameRegsBut t (fun r => r = x ∨ r = VF) ∧ s.frameRegs t := by
  simpa only [decide_eq_true_eq] using exec_of_eq_resultFlag h hb

/-- The same of a flag that is a bit, read as a number (R168, R170). -/
theorem exec_of_eq_resultFlag_bit {i : Instr} {s : State} {x : Reg} {b : Byte} {flag : Bool} {n c : Nat}
    (h : exec i s = .next (s.resultFlag x b flag)) (hb : b.toNat = n) (hflag : flag.toNat = c) :
    ∃ t, exec i s = .next t ∧ (x ≠ VF → (t.readV x).toNat = n) ∧ (t.readV VF).toNat = c ∧
      t.pc = s.pc + 2 ∧ s.sameRegsBut t (fun r => r = x ∨ r = VF) ∧ s.frameRegs t := by
  obtain ⟨t, ht, hx, hVF, frame⟩ := exec_of_eq_resultFlag h hb
  refine ⟨t, ht, hx, ?_, frame⟩
  rw [hVF, ← hflag]
  cases flag <;> rfl

/-! ### Results and flags as numbers -/

/-- The difference modulo 256 as R167 writes it: 256 is added before the subtraction, so that it stays natural. -/
theorem byte_sub_toNat (a b : Byte) : (a - b).toNat = (a.toNat + 256 - b.toNat) % 256 := by
  have := b.isLt
  rw [BitVec.toNat_sub, show a.toNat + 256 - b.toNat = 2 ^ 8 - b.toNat + a.toNat by omega]

theorem byte_shiftRight_one_toNat (a : Byte) : (a >>> 1).toNat = a.toNat / 2 := by
  rw [BitVec.toNat_ushiftRight, Nat.shiftRight_eq_div_pow, Nat.pow_one]

theorem byte_shiftLeft_one_toNat (a : Byte) : (a <<< 1).toNat = a.toNat * 2 % 256 := by
  rw [BitVec.toNat_shiftLeft, Nat.shiftLeft_eq, Nat.pow_one]

theorem lowBit_toNat (a : Byte) : (lowBit a).toNat = a.toNat % 2 := by
  rw [lowBit, BitVec.getLsbD, Nat.toNat_testBit, Nat.pow_zero, Nat.div_one]

/-- Bit 7 is the top bit of a byte, so nothing is left above it. -/
theorem highBit_toNat (a : Byte) : (highBit a).toNat = a.toNat / 128 := by
  have := a.isLt
  rw [highBit, BitVec.getLsbD, Nat.toNat_testBit]
  omega

/-- Settles O21: a result with the carry as its flag. -/
theorem addSetsCarry : Obligations.AddSetsCarry :=
  fun _ _ _ => exec_of_eq_resultFlag_decide rfl (BitVec.toNat_add _ _)

/-- Settles O22: either is a result with not-borrow as its flag. -/
theorem subtractSetsNotBorrow : Obligations.SubtractSetsNotBorrow :=
  fun _ _ _ =>
    ⟨exec_of_eq_resultFlag_decide rfl (byte_sub_toNat _ _), exec_of_eq_resultFlag_decide rfl (byte_sub_toNat _ _)⟩

/-- Settles O23: either is a result with the bit shifted out as its flag, and neither meaning mentions `Y`. -/
theorem shiftsReportTheBitShiftedOut : Obligations.ShiftsReportTheBitShiftedOut :=
  fun _ _ _ =>
    ⟨exec_of_eq_resultFlag_bit rfl (byte_shiftRight_one_toNat _) (lowBit_toNat _),
      exec_of_eq_resultFlag_bit rfl (byte_shiftLeft_one_toNat _) (highBit_toNat _), fun _ => ⟨rfl, rfl⟩⟩

/-! ### The random byte (R171) -/

/-- The end of a cycle writes no general register. -/
@[simp] theorem State.readV_finish (t : State) (y : Reg) : t.finish.readV y = t.readV y := by
  by_cases ht : t.fault = .none
  · rw [State.finish_of_healthy ht, State.readV_tick]
  · rw [State.finish_of_faulted ht]

/-- A cycle that fetches `RND Vx, NN` supplies its byte before the instruction reads it. -/
theorem runCycle_rnd {x : Reg} {nn : Byte} {s : State} (rand : Byte) (hs : s.healthy)
    (hfetch : decodeWord s.fetch = some (.rnd x nn)) :
    runCycle rand s = .next ((s.supplyRand rand).result x (rand &&& nn)).finish := by
  have executed : (s.supplyRand rand).afterExecute = exec (.rnd x nn) (s.supplyRand rand) :=
    State.afterExecute_of_some hfetch
  exact runCycle_of_healthy rand hs executed

/-- Settles O24: `RND` is a result, and a cycle executes it on the state that holds the host's byte. -/
theorem randomIsMasked : Obligations.RandomIsMasked :=
  fun _ _ _ =>
    ⟨exec_of_eq_result rfl, fun rand hs hfetch =>
      ⟨_, runCycle_rnd rand hs hfetch, by rw [State.readV_finish, State.readV_result_self]⟩⟩

end Sys2Proof.Machine

end

section
/-! PROOFS. The family of 43_index_memory.md: what setting `I` leaves unchanged (R192), and the three decimal digits of a
register in memory (R193). -/

namespace Sys2Proof.Machine

theorem State.readByte_advance (s : State) (a : Nat) : s.advance.readByte a = s.readByte a := rfl

/-! ### The index register (R192) -/

theorem State.frameIndex_setI_advance (s : State) (a : Word) : s.frameIndex (s.setI a).advance :=
  ⟨rfl, fun c => (s.setI a).readByte_advance c⟩

/-- Settles O30: the meaning sets `I` to the glyph's address, which the constraints of R7 keep below 2^16. -/
theorem glyphAddress : Obligations.GlyphAddress :=
  fun x s hp =>
    ⟨(s.setI (s.glyphAddr (s.readV x))).advance, rfl, State.glyphAddr_toNat hp (s.readV x), rfl, rfl,
      s.frameIndex_setI_advance _⟩

/-! ### Decimal digits in memory (R193) -/

/-- The hundreds, tens and ones of a byte stored at `I`, `I + 1` and `I + 2`, in this order (R193). -/
def State.storeDigits (s : State) (b : Byte) : State :=
  ((s.writeByte (s.dataAddr 0) (hundreds b)).writeByte (s.dataAddr 1) (tens b)).writeByte (s.dataAddr 2) (ones b)

theorem exec_ldB (x : Reg) (s : State) : exec (.ldB x) s = .next (s.storeDigits (s.readV x)).advance := rfl

theorem State.frameMem_storeDigits_advance (s : State) (b : Byte) : s.frameMem (s.storeDigits b).advance := rfl

/-- What a read sees of the three stores: the latest one to its reduced address. -/
theorem State.readByte_storeDigits (s : State) (b : Byte) (a : Nat) :
    (s.storeDigits b).readByte a =
      if a % s.cfg.memSize = s.dataAddr 2 % s.cfg.memSize then ones b
      else if a % s.cfg.memSize = s.dataAddr 1 % s.cfg.memSize then tens b
      else if a % s.cfg.memSize = s.dataAddr 0 % s.cfg.memSize then hundreds b
      else s.readByte a := by
  simp only [State.storeDigits, State.readByte_writeByte, State.writeByte_cfg]

theorem State.readByte_storeDigits_two (s : State) (b : Byte) : (s.storeDigits b).readByte (s.dataAddr 2) = ones b := by
  rw [State.readByte_storeDigits, if_pos rfl]

/-- The tens stand, since the ones go to another address once reduced (R65). -/
theorem State.readByte_storeDigits_one {s : State} (hp : s.cfg.wf = true) (b : Byte) :
    (s.storeDigits b).readByte (s.dataAddr 1) = tens b := by
  have notTwo := State.dataAddr_distinct hp (j := 1) (k := 2) (by decide) (by decide) (by decide)
  rw [State.readByte_storeDigits, if_neg notTwo, if_pos rfl]

/-- The hundreds stand, since the other two digits go to other addresses once reduced (R65). -/
theorem State.readByte_storeDigits_zero {s : State} (hp : s.cfg.wf = true) (b : Byte) :
    (s.storeDigits b).readByte (s.dataAddr 0) = hundreds b := by
  have notTwo := State.dataAddr_distinct hp (j := 0) (k := 2) (by decide) (by decide) (by decide)
  have notOne := State.dataAddr_distinct hp (j := 0) (k := 1) (by decide) (by decide) (by decide)
  rw [State.readByte_storeDigits, if_neg notTwo, if_neg notOne, if_pos rfl]

theorem State.readByte_storeDigits_outside (s : State) (b : Byte) {a : Nat}
    (outside : ∀ k < 3, a % s.cfg.memSize ≠ s.dataAddr k % s.cfg.memSize) :
    (s.storeDigits b).readByte a = s.readByte a := by
  rw [State.readByte_storeDigits, if_neg (outside 2 (by decide)), if_neg (outside 1 (by decide)),
    if_neg (outside 0 (by decide))]

/-- Settles O31: the three stores go to distinct reduced addresses, so each digit stands and no other byte changes. -/
theorem decimalDigitsAreStored : Obligations.DecimalDigitsAreStored := by
  intro x s hp
  refine ⟨_, exec_ldB x s, ?hundreds, ?tens, ?ones, fun a outside => ?others, rfl, s.frameMem_storeDigits_advance _⟩
  case hundreds => rw [State.readByte_advance, State.readByte_storeDigits_zero hp, hundreds_toNat]
  case tens => rw [State.readByte_advance, State.readByte_storeDigits_one hp, tens_toNat]
  case ones => rw [State.readByte_advance, State.readByte_storeDigits_two, ones_toNat]
  case others => rw [State.readByte_advance, s.readByte_storeDigits_outside _ outside]

end Sys2Proof.Machine

end

section
/-! PROOFS. The family of 44_timer_input.md: reading a timer into a register (R212), and what loading a timer leaves
unchanged (R214, R215) and becomes in the tick of its own cycle (R127). -/

namespace Sys2Proof.Machine

/-! ### Loading a timer (R214, R215) -/

theorem State.frameTimers_setDt_advance (s : State) (b : Byte) : s.frameTimers (s.setDt b).advance :=
  ⟨rfl, fun c => ((s.setDt b).readByte_advance c).trans (s.readByte_setDt b c)⟩

theorem State.frameTimers_setSt_advance (s : State) (b : Byte) : s.frameTimers (s.setSt b).advance :=
  ⟨rfl, fun c => ((s.setSt b).readByte_advance c).trans (s.readByte_setSt b c)⟩

/-! ### The tick of the cycle that loads a timer (R127) -/

theorem State.tick_dt_setDt_advance (s : State) (b : Byte) : (s.setDt b).advance.tick.dt.toNat = b.toNat - 1 := by
  rw [State.tick_dt, countDown_toNat, State.advance_eq, State.setPc_dt, State.setDt_dt]

theorem State.tick_st_setSt_advance (s : State) (b : Byte) : (s.setSt b).advance.tick.st.toNat = b.toNat - 1 := by
  rw [State.tick_st, countDown_toNat, State.advance_eq, State.setPc_st, State.setSt_st]

theorem State.tick_tone_setSt_advance (s : State) (b : Byte) :
    (s.setSt b).advance.tick.tone = true ↔ b.toNat = 1 := by
  rw [State.tick_tone_iff, State.advance_eq, State.setPc_st, State.setSt_st]

/-- Settles O37: reading `DT` is a result, and loading a timer is one write of that timer, which the tick counts down. -/
theorem timerInstructions : Obligations.TimerInstructions := by
  refine fun x s => ⟨?readDt, ?loadDt, ?loadSt⟩
  case readDt => exact exec_of_eq_result rfl
  case loadDt =>
    exact ⟨(s.setDt (s.readV x)).advance, rfl, rfl, rfl, rfl, s.frameTimers_setDt_advance _, s.tick_dt_setDt_advance _⟩
  case loadSt =>
    exact ⟨(s.setSt (s.readV x)).advance, rfl, rfl, rfl, rfl, s.frameTimers_setSt_advance _, s.tick_st_setSt_advance _,
      s.tick_tone_setSt_advance _⟩

end Sys2Proof.Machine

end

section
/-! PROOFS. The family of 45_display.md: what CLS leaves (R230), and that pixels change by CLS and DRW alone (R233). -/

namespace Sys2Proof.Machine

/-! ### Clearing the display (R230) -/

/-- A new display, and the address after the instruction: no register and no byte of memory is written. -/
theorem State.frameDisplay_present_advance (s : State) (d : Display) : s.frameDisplay (s.present d).advance :=
  ⟨rfl, fun c => ((s.present d).readByte_advance c).trans (s.readByte_present d c)⟩

/-- Settles O39: CLS presents the cleared display, each of whose pixels is 0, and advances. -/
theorem clearBlanksTheDisplay : Obligations.ClearBlanksTheDisplay :=
  fun s =>
    ⟨(s.present (Display.clear s.cfg)).advance, rfl, Display.pixel_clear, rfl, rfl, rfl, s.frameDisplay_present_advance _⟩

/-! ### Everything the instructions with a case split can do -/

theorem execCall_cases {nnn : Addr12} {s t : State} (h : execCall nnn s = .next t) :
    (s.sp = s.cfg.stackDepth ∧ t = s.raise .stackOverflow) ∨
    (s.sp ≠ s.cfg.stackDepth ∧
      t = ({ s with stack := s.stack.set s.sp s.nextPc, sp := s.sp + 1 } : State).setPc (addrOf nnn)) := by
  by_cases full : s.sp = s.cfg.stackDepth
  · rw [execCall, s.push_of_full _ full] at h
    exact .inl ⟨full, (Host.Outcome.next.inj h).symm⟩
  · rw [execCall, s.push_of_ne _ full] at h
    exact .inr ⟨full, (Host.Outcome.next.inj h).symm⟩

theorem execRet_cases {s t : State} (h : execRet s = .next t) :
    (s.sp = 0 ∧ t = s.raise .stackUnderflow) ∨
    (0 < s.sp ∧ t = ({ s with sp := s.sp - 1 } : State).setPc (s.entry (s.sp - 1))) := by
  obtain empty | entries := Nat.eq_zero_or_pos s.sp
  · rw [execRet, s.pop_of_empty empty] at h
    exact .inl ⟨empty, (Host.Outcome.next.inj h).symm⟩
  · rw [execRet, s.pop_of_pos entries] at h
    exact .inr ⟨entries, (Host.Outcome.next.inj h).symm⟩

theorem execLdVxK_cases {x : Reg} {s t : State} (h : execLdVxK x s = .next t) :
    (s.firstHeld = none ∧ t = s) ∨
    ∃ k, s.firstHeld = some k ∧ t = (s.writeV x (BitVec.ofNat 8 k.val)).advance := by
  rw [execLdVxK] at h
  cases hk : s.firstHeld with
  | none => rw [hk] at h; exact .inl ⟨rfl, (Host.Outcome.next.inj h).symm⟩
  | some k => rw [hk] at h; exact .inr ⟨k, rfl, (Host.Outcome.next.inj h).symm⟩

/-! ### What no other instruction writes (R233) -/

@[simp] theorem State.dumpRegs_disp (s : State) (n : Nat) : (s.dumpRegs n).disp = s.disp := by
  rw [State.dumpRegs_frame]

@[simp] theorem State.loadRegs_disp (s : State) (n : Nat) : (s.loadRegs n).disp = s.disp := by
  rw [State.loadRegs_frame]

/-- The instructions that write the display are CLS and DRW. -/
theorem eq_cls_or_drw_of_writesDisp {i : Instr} (h : i.writesDisp = true) : i = .cls ∨ ∃ x y n, i = .drw x y n := by
  cases i with
  | cls => exact .inl rfl
  | drw x y n => exact .inr ⟨x, y, n, rfl⟩
  | _ => cases h

/-- An instruction other than CLS and DRW leaves the display. Apart from the five whose answer is a case split or a
recursion, its next state is a chain of updates of other fields. -/
theorem exec_disp {i : Instr} {s t : State} (other : i.writesDisp = false) (h : exec i s = .next t) :
    t.disp = s.disp := by
  cases i with
  | cls | drw x y n => cases other
  | call nnn => obtain ⟨-, rfl⟩ | ⟨-, rfl⟩ := execCall_cases h <;> rfl
  | ret => obtain ⟨-, rfl⟩ | ⟨-, rfl⟩ := execRet_cases h <;> rfl
  | ldVxK x => obtain ⟨-, rfl⟩ | ⟨k, -, rfl⟩ := execLdVxK_cases h <;> rfl
  | ldMemVx x => cases h; exact s.dumpRegs_disp _
  | ldVxMem x => cases h; exact s.loadRegs_disp _
  | _ => cases h; rfl

/-- The execute part of a cycle that changes the display ran an instruction that writes it. -/
theorem State.writesDisp_of_afterExecute {s t : State} (h : s.afterExecute = .next t) (changed : t.disp ≠ s.disp) :
    ∃ i, decodeWord s.fetch = some i ∧ i.writesDisp = true := by
  cases hd : decodeWord s.fetch with
  | none =>
    rw [State.afterExecute_of_none hd] at h
    cases h
    exact absurd (s.recordUnknown_disp _) changed
  | some i =>
    rw [State.afterExecute_of_some hd] at h
    exact ⟨i, rfl, Bool.of_not_eq_false fun other => changed (exec_disp other h)⟩

@[simp] theorem State.finish_disp (t : State) : t.finish.disp = t.disp := by
  by_cases ht : t.fault = .none
  · rw [State.finish_of_healthy ht, State.tick_disp]
  · rw [State.finish_of_faulted ht]

/-- The rest of the cycle leaves the display, so a cycle changes it only by its execute part. -/
theorem runCycle_writesDisp {rand : Byte} {s t : State} (h : runCycle rand s = .next t) (changed : t.disp ≠ s.disp) :
    ∃ i, decodeWord s.fetch = some i ∧ i.writesDisp = true := by
  obtain ⟨-, rfl⟩ | ⟨-, u, hu, rfl⟩ := runCycle_cases h
  · exact absurd rfl changed
  · rw [State.finish_disp] at changed
    rw [← s.fetch_supplyRand rand]
    exact State.writesDisp_of_afterExecute hu changed

theorem State.frameHost.disp_eq {s t : State} (h : s.frameHost t) : t.disp = s.disp := by
  rw [h]

/-- Settles O42: only the execute part of a cycle can change the display, only CLS and DRW write it there, and the
host's operations between cycles stay inside `frameHost`. -/
theorem pixelsChangeOnlyByClearAndDraw : Obligations.PixelsChangeOnlyByClearAndDraw := by
  refine ⟨fun s t h changed => ?_, fun s t m r notRunCycle notInitialise h => ?_⟩
  · obtain ⟨i, hfetch, writes⟩ := runCycle_writesDisp (s := s.countDraw) h changed
    rw [State.fetch_countDraw] at hfetch
    obtain rfl | ⟨x, y, n, rfl⟩ := eq_cls_or_drw_of_writesDisp writes
    · exact .inl hfetch
    · exact .inr ⟨x, y, n, hfetch⟩
  · exact (State.move_frame notRunCycle notInitialise h).disp_eq

end Sys2Proof.Machine

end

section
/-! PROOFS. The family of 60_exceptions.md: `set_key` (R263). -/

namespace Sys2Proof.Machine

/-! ### Writing one key (R263) -/

theorem State.setKey_of_lt (s : State) {index : Nat} (pressed : Bool) (h : index < 16) :
    s.setKey index pressed = .next { s with key := s.key.set index pressed h } :=
  dif_pos h

theorem State.held_set_same (s : State) {index : Nat} (pressed : Bool) (h : index < 16) :
    ({ s with key := s.key.set index pressed h } : State).held ⟨index, h⟩ = pressed :=
  Vector.getElem_set_self h

theorem State.held_set_other (s : State) {index : Nat} (pressed : Bool) (h : index < 16) {k : Reg}
    (other : k.val ≠ index) : ({ s with key := s.key.set index pressed h } : State).held k = s.held k :=
  Vector.getElem_set_ne h k.isLt other.symm

/-- Settles O59: for an index that is a key, `set_key` is one write of the input table. -/
theorem setKeyWritesOneKey : Obligations.SetKeyWritesOneKey :=
  fun s _ pressed h =>
    ⟨_, s.setKey_of_lt pressed h, s.held_set_same pressed h, fun _ => s.held_set_other pressed h, rfl⟩

end Sys2Proof.Machine

end

section
/-! PROOFS. The family of 70_reset_and_hazards.md: what the reset state reads as (R291), and that a core has no step
before its first `initialize` (R292). -/

namespace Sys2Proof.Machine

/-! ### The reset state, read (R291) -/

/-- `PROG_START` is below `MEM_SIZE` and so fits the 16 bits of `pc`: nothing is cut off. -/
theorem State.resetOf_pc_toNat {p : Config.Params} (h : p.wf = true) : (State.resetOf p).pc.toNat = p.progStart := by
  obtain ⟨-, memSize_le, -, -, progStart_lt, -⟩ := params_bounds h
  exact Nat.mod_eq_of_lt (progStart_lt.trans_le memSize_le)

@[simp] theorem State.readV_resetOf (p : Config.Params) (x : Reg) : (State.resetOf p).readV x = 0 :=
  Vector.getElem_replicate x.isLt

@[simp] theorem State.held_resetOf (p : Config.Params) (k : Reg) : (State.resetOf p).held k = false :=
  Vector.getElem_replicate k.isLt

/-- Reset leaves the display as CLS does (R230). -/
@[simp] theorem State.resetOf_disp (p : Config.Params) : (State.resetOf p).disp = Display.clear p := rfl

/-- Settles O1: `pc` by the bounds of R7, registers, keys and pixels by what the reset state reads as; the other fields
stand in `State.resetOf`. -/
theorem resetEntryAndZeros : Obligations.ResetEntryAndZeros := by
  refine ⟨fun p s admissible isReset => ?_, rfl, by decide, rfl⟩
  subst isReset
  have blank : ∀ r c, (State.resetOf p).disp.pixel r c = false := by
    rw [State.resetOf_disp]
    exact Display.pixel_clear
  exact ⟨State.resetOf_pc_toNat admissible, rfl, State.readV_resetOf p, rfl, rfl, rfl, blank, State.held_resetOf p,
    rfl, rfl, rfl, rfl⟩

/-! ### A core before its first `initialize` (R292) -/

/-- Settles O57, by the host's operations: `hostStep` answers `initialize` and refuses each of the others. -/
theorem uninitializedCoreHasNoMove : Obligations.UninitializedCoreHasNoMove := by
  intro m p notInitialise
  cases m with
  | initialise => exact absurd rfl notInitialise
  | loadProgram | runCycle | setKey | displaySnapshot | displayAck | shouldTone | status => rfl

end Sys2Proof.Machine

end

section
/-! PROOFS. The family of 30_encoding.md: the decoder and the encoder undo each other, the words that do not decode are
those of R97, the rows of the opcode map are disjoint (R96), and a line assembles to its instruction (R100). -/

namespace Sys2Proof

/-! ### Decoding what was encoded -/

theorem decodeWord_encode (i : Instr) : decodeWord (encode i) = some i := by
  cases i with
  | cls | ret => decide
  | seReg x y => simp [encode, decodeWord, decode5]
  | sneReg x y => simp [encode, decodeWord, decode9]
  | ldReg x y | orReg x y | andReg x y | xorReg x y | addReg x y | sub x y | shr x y | subn x y | shl x y =>
    simp [encode, decodeWord, decode8]
  | skp x | sknp x => simp [encode, decodeWord, decodeE]
  | ldVxDt x | ldVxK x | ldDtVx x | ldStVx x | addI x | ldF x | ldB x | ldMemVx x | ldVxMem x =>
    simp [encode, decodeWord, decodeF]
  | _ => simp [encode, decodeWord]

theorem decode_bytesOfWord {w : Word} {i : Instr} (h : decodeWord w = some i) (rest : List Byte) :
    decode (bytesOfWord w ++ rest) = .ok (i, rest) := by
  simp [bytesOfWord, decode, h]

/-- Settles O49: the decoder reads back every field the encoder writes, and the two bytes are the word. -/
theorem decodeInvertsEncode : Obligations.DecodeInvertsEncode :=
  fun i rest => ⟨decode_bytesOfWord (decodeWord_encode i) rest, decodeWord_encode i⟩

/-! ### A word is its fields (R91, R92) -/

theorem formatA_fields (op : Word) : formatA (family op) (fieldNNN op) = op :=
  BitVec.eq_of_toNat_eq (by rw [formatA_toNat, family_toNat, fieldNNN_toNat]; omega)

theorem formatXK_fields (op : Word) : formatXK (family op) (fieldX op) (fieldNN op) = op :=
  BitVec.eq_of_toNat_eq (by rw [formatXK_toNat, family_toNat, fieldX_val, fieldNN_toNat]; omega)

theorem formatXY_fields (op : Word) : formatXY (family op) (fieldX op) (fieldY op) (fieldN op) = op :=
  BitVec.eq_of_toNat_eq (by rw [formatXY_toNat, family_toNat, fieldX_val, fieldY_val, fieldN_toNat]; omega)

section
variable {op : Word} {f : Nibble} (hf : (family op).toNat = f.toNat)
include hf

theorem formatA_of_family : formatA f (fieldNNN op) = op := by
  rw [← BitVec.eq_of_toNat_eq hf, formatA_fields]

theorem formatXK_of_family : formatXK f (fieldX op) (fieldNN op) = op := by
  rw [← BitVec.eq_of_toNat_eq hf, formatXK_fields]

theorem formatXY_of_family : formatXY f (fieldX op) (fieldY op) (fieldN op) = op := by
  rw [← BitVec.eq_of_toNat_eq hf, formatXY_fields]

theorem formatA_of_fieldNNN {nnn : Addr12} (h : fieldNNN op = nnn) : formatA f nnn = op := by
  rw [← h, formatA_of_family hf]

theorem formatXK_of_fieldNN {sel : Byte} (h : (fieldNN op).toNat = sel.toNat) : formatXK f (fieldX op) sel = op := by
  rw [← BitVec.eq_of_toNat_eq h, formatXK_of_family hf]

theorem formatXY_of_fieldN {sel : Nibble} (h : (fieldN op).toNat = sel.toNat) :
    formatXY f (fieldX op) (fieldY op) sel = op := by
  rw [← BitVec.eq_of_toNat_eq h, formatXY_of_family hf]

end

/-! ### Encoding what was decoded, family by family (R94) -/

section
variable {op : Word} {i : Instr}

theorem encode_of_decode0 (hf : (family op).toNat = 0x0) (h : decode0 op = some i) : encode i = op := by
  unfold decode0 at h
  split at h
  · next hn => cases h; exact formatA_of_fieldNNN (f := 0x0#4) hf hn
  · split at h
    · next hn => cases h; exact formatA_of_fieldNNN (f := 0x0#4) hf hn
    · cases h

theorem encode_of_decode5 (hf : (family op).toNat = 0x5) (h : decode5 op = some i) : encode i = op := by
  unfold decode5 at h
  split at h
  · next hn => cases h; exact formatXY_of_fieldN hf (congrArg BitVec.toNat hn)
  · cases h

theorem encode_of_decode9 (hf : (family op).toNat = 0x9) (h : decode9 op = some i) : encode i = op := by
  unfold decode9 at h
  split at h
  · next hn => cases h; exact formatXY_of_fieldN hf (congrArg BitVec.toNat hn)
  · cases h

theorem encode_of_decode8 (hf : (family op).toNat = 0x8) (h : decode8 op = some i) : encode i = op := by
  unfold decode8 at h
  split at h <;> cases h
  all_goals exact formatXY_of_fieldN hf ‹_›

theorem encode_of_decodeE (hf : (family op).toNat = 0xE) (h : decodeE op = some i) : encode i = op := by
  unfold decodeE at h
  split at h <;> cases h
  all_goals exact formatXK_of_fieldNN hf ‹_›

theorem encode_of_decodeF (hf : (family op).toNat = 0xF) (h : decodeF op = some i) : encode i = op := by
  unfold decodeF at h
  split at h <;> cases h
  all_goals exact formatXK_of_fieldNN hf ‹_›

/-- The decoder's last arm is family 0xF: a nibble that is none of the others. -/
theorem family_last {f : Nibble} (h : ∀ k < 15, f.toNat ≠ k) : f.toNat = 0xF := by
  have := f.isLt
  have := h f.toNat
  omega

/-- The cases are the decoder's families, `h_1` family 0x0 to `h_16` family 0xF: first those selected by a field, then
those of formats A, XYN and XK. -/
theorem encode_of_decodeWord (h : decodeWord op = some i) : encode i = op := by
  unfold decodeWord at h
  split at h
  case h_1 hf => exact encode_of_decode0 hf h
  case h_6 hf => exact encode_of_decode5 hf h
  case h_9 hf => exact encode_of_decode8 hf h
  case h_10 hf => exact encode_of_decode9 hf h
  case h_15 hf => exact encode_of_decodeE hf h
  case h_16 => exact encode_of_decodeF (family_last fun k hk => by interval_cases k <;> assumption) h
  case h_2 hf | h_3 hf | h_11 hf | h_12 hf => cases h; exact formatA_of_family hf
  case h_14 hf => cases h; exact formatXY_of_family hf
  all_goals cases h; exact formatXK_of_family ‹_›

/-! ### The unknown opcodes (R97) -/

theorem decode0_eq_none : decode0 op = none ↔ (fieldNNN op).toNat ∉ [0x0E0, 0x0EE] := by
  unfold decode0
  simp only [← BitVec.toNat_inj]
  split
  · simp_all
  · split <;> simp_all

theorem decode5_eq_none : decode5 op = none ↔ (fieldN op).toNat ≠ 0 := by
  simp [decode5, ← BitVec.toNat_inj]

theorem decode9_eq_none : decode9 op = none ↔ (fieldN op).toNat ≠ 0 := by
  simp [decode9, ← BitVec.toNat_inj]

theorem decode8_eq_none : decode8 op = none ↔ (fieldN op).toNat ∈ [0x8, 0x9, 0xA, 0xB, 0xC, 0xD, 0xF] := by
  have := (fieldN op).isLt
  unfold decode8
  split
  case h_10 => simp only [List.mem_cons, List.not_mem_nil, or_false, true_iff, imp_false] at *; omega
  all_goals simp [*]

theorem decodeE_eq_none : decodeE op = none ↔ (fieldNN op).toNat ∉ [0x9E, 0xA1] := by
  unfold decodeE
  split <;> simp_all

theorem decodeF_eq_none :
    decodeF op = none ↔ (fieldNN op).toNat ∉ [0x07, 0x0A, 0x15, 0x18, 0x1E, 0x29, 0x33, 0x55, 0x65] := by
  unfold decodeF
  split <;> simp_all

theorem decodeWord_eq_none_iff : decodeWord op = none ↔ unknownOpcode op = true := by
  unfold decodeWord unknownOpcode
  split
  case h_1 hf => simp only [hf, decode0_eq_none, decide_eq_true_iff]
  case h_6 hf => simp only [hf, decode5_eq_none, decide_eq_true_iff]
  case h_9 hf => simp only [hf, decode8_eq_none, decide_eq_true_iff]
  case h_10 hf => simp only [hf, decode9_eq_none, decide_eq_true_iff]
  case h_15 hf => simp only [hf, decodeE_eq_none, decide_eq_true_iff]
  case h_16 =>
    have hf := family_last (f := family op) fun k hk => by interval_cases k <;> assumption
    simp only [hf, decodeF_eq_none, decide_eq_true_iff]
  all_goals simp [*]

end

/-- Settles O50: a word is the format of its fields, and each family's decoder keeps all of them. -/
theorem encodeInvertsDecode : Obligations.EncodeInvertsDecode :=
  fun _ _ => encode_of_decodeWord

/-- Settles O51: each family's decoder fails exactly on the selectors that R97 lists for it. -/
theorem unknownWordsAreThoseListed : Obligations.UnknownWordsAreThoseListed :=
  fun _ => decodeWord_eq_none_iff

/-! ### The opcode map (R96) -/

theorem rowMatches_encode (i : Instr) : rowMatches (encode i) i.row = true := by
  cases i with
  | cls => exact Laws.Encoding.cls
  | ret => exact Laws.Encoding.ret
  | jp nnn => exact Laws.Encoding.jp nnn
  | call nnn => exact Laws.Encoding.call nnn
  | seImm x nn => exact Laws.Encoding.seImm x nn
  | sneImm x nn => exact Laws.Encoding.sneImm x nn
  | seReg x y => exact Laws.Encoding.seReg x y
  | ldImm x nn => exact Laws.Encoding.ldImm x nn
  | addImm x nn => exact Laws.Encoding.addImm x nn
  | ldReg x y => exact Laws.Encoding.ldReg x y
  | orReg x y => exact Laws.Encoding.orReg x y
  | andReg x y => exact Laws.Encoding.andReg x y
  | xorReg x y => exact Laws.Encoding.xorReg x y
  | addReg x y => exact Laws.Encoding.addReg x y
  | sub x y => exact Laws.Encoding.sub x y
  | shr x y => exact Laws.Encoding.shr x y
  | subn x y => exact Laws.Encoding.subn x y
  | shl x y => exact Laws.Encoding.shl x y
  | sneReg x y => exact Laws.Encoding.sneReg x y
  | ldI nnn => exact Laws.Encoding.ldI nnn
  | jpV0 nnn => exact Laws.Encoding.jpV0 nnn
  | rnd x nn => exact Laws.Encoding.rnd x nn
  | drw x y n => exact Laws.Encoding.drw x y n
  | skp x => exact Laws.Encoding.skp x
  | sknp x => exact Laws.Encoding.sknp x
  | ldVxDt x => exact Laws.Encoding.ldVxDt x
  | ldVxK x => exact Laws.Encoding.ldVxK x
  | ldDtVx x => exact Laws.Encoding.ldDtVx x
  | ldStVx x => exact Laws.Encoding.ldStVx x
  | addI x => exact Laws.Encoding.addI x
  | ldF x => exact Laws.Encoding.ldF x
  | ldB x => exact Laws.Encoding.ldB x
  | ldMemVx x => exact Laws.Encoding.ldMemVx x
  | ldVxMem x => exact Laws.Encoding.ldVxMem x

theorem opcodeTable_nodup : opcodeTable.Nodup := by decide

theorem row_mem_opcodeTable (i : Instr) : i.row ∈ opcodeTable := by
  cases i <;> simp [Instr.row, opcodeTable]

/-- Two rows differ in a bit that both masks keep: no word matches both. -/
abbrev rowsApart (r q : Word × Word) : Prop := r.1 &&& q.2 ≠ q.1 &&& r.2

theorem rowsApart_symm : Std.Symm rowsApart := ⟨fun _ _ h => h.symm⟩

theorem opcodeTable_apart : opcodeTable.Pairwise rowsApart := by decide

/-- A word matches at most one row: masked by both masks, it is what both rows say. -/
theorem row_eq_of_rowMatches {op : Word} {r q : Word × Word} (hr : r ∈ opcodeTable) (hq : q ∈ opcodeTable)
    (matchesR : rowMatches op r = true) (matchesQ : rowMatches op q = true) : r = q := by
  rw [rowMatches, decide_eq_true_iff] at matchesR matchesQ
  have := rowsApart_symm
  by_contra other
  refine opcodeTable_apart.forall hr hq other ?_
  rw [← matchesR, ← matchesQ, BitVec.and_assoc, BitVec.and_assoc, BitVec.and_comm r.2]

theorem filter_opcodeTable_eq_row {op : Word} {i : Instr} (h : rowMatches op i.row = true) :
    opcodeTable.filter (rowMatches op) = [i.row] := by
  have only : ∀ r ∈ opcodeTable, rowMatches op r = (r == i.row) := by
    intro r hr
    rw [Bool.eq_iff_iff, beq_iff_eq]
    exact ⟨fun matchesR => row_eq_of_rowMatches hr (row_mem_opcodeTable i) matchesR h, fun same => same ▸ h⟩
  rw [List.filter_congr only, List.filter_beq, List.count_eq_one_of_mem opcodeTable_nodup (row_mem_opcodeTable i),
    List.replicate_one]

section
variable (op m : Word)

/-- A row asks for a family and for the value of what its mask keeps of the other twelve bits. -/
theorem rowMatches_of_masked {op m k : Word} {f r : Nat} (hr : r < 4096) (masked : (op &&& k).toNat = f * 4096 + r) :
    rowMatches op (m, k) = decide (f = m.toNat / 4096 ∧ r = m.toNat % 4096) := by
  rw [rowMatches, decide_eq_decide, ← BitVec.toNat_inj, masked]
  show f * 4096 + r = m.toNat ↔ _
  omega

theorem rowMatches_family :
    rowMatches op (m, 0xF000#16) = decide ((family op).toNat = m.toNat / 4096 ∧ 0 = m.toNat % 4096) :=
  rowMatches_of_masked (by decide) <| by
    conv_lhs => rw [← formatA_fields op, formatA_mask, formatA_toNat]
    simp

theorem rowMatches_fieldN :
    rowMatches op (m, 0xF00F#16) = decide ((family op).toNat = m.toNat / 4096 ∧ (fieldN op).toNat = m.toNat % 4096) :=
  rowMatches_of_masked (by omega) <| by
    conv_lhs => rw [← formatXY_fields op, formatXY_mask, formatXY_toNat]
    simp

theorem rowMatches_fieldNN :
    rowMatches op (m, 0xF0FF#16) = decide ((family op).toNat = m.toNat / 4096 ∧ (fieldNN op).toNat = m.toNat % 4096) :=
  rowMatches_of_masked (by omega) <| by
    conv_lhs => rw [← formatXK_fields op, formatXS_mask, formatXK_toNat]
    simp

theorem rowMatches_fieldNNN :
    rowMatches op (m, 0xFFFF#16) = decide ((family op).toNat = m.toNat / 4096 ∧ (fieldNNN op).toNat = m.toNat % 4096) :=
  rowMatches_of_masked (by omega) <| by
    rw [show op &&& 0xFFFF#16 = op from BitVec.and_allOnes, ← formatA_toNat, formatA_fields]

end

/-- The rows of an unknown word's family ask for other selectors than the word's, those of the other families for another
family. -/
theorem filter_opcodeTable_of_unknown {op : Word} (h : unknownOpcode op = true) :
    opcodeTable.filter (rowMatches op) = [] := by
  rw [List.filter_eq_nil_iff]
  unfold unknownOpcode at h
  split at h <;>
    simp_all [opcodeTable, rowMatches_family, rowMatches_fieldN, rowMatches_fieldNN, rowMatches_fieldNNN]
  -- Family 0x8 is the one for which R97 lists the unknown selectors, not the known ones.
  omega

/-- Settles O52: a decoded word matches its instruction's row and, the rows being disjoint, no other; an unknown word
has a family and a selector that no row asks for. -/
theorem opcodeMapRowsAreDisjoint : Obligations.OpcodeMapRowsAreDisjoint := by
  intro op
  cases hd : decodeWord op with
  | none => exact filter_opcodeTable_of_unknown (decodeWord_eq_none_iff.mp hd)
  | some i =>
    have matchesRow := rowMatches_encode i
    rw [encode_of_decodeWord hd] at matchesRow
    exact filter_opcodeTable_eq_row matchesRow

/-- Settles O53: the words are fixed, and the decoder computes. -/
theorem sampleWordsDecode : Obligations.SampleWordsDecode := by
  unfold Obligations.SampleWordsDecode
  decide

end Sys2Proof

namespace Sys2Proof.Machine

/-! ### The assembler (R100) -/

@[simp] theorem asmReg_val (x : Reg) : asmReg x.val = .ok x := dif_pos x.isLt

@[simp] theorem asmLit_toNat {width : Nat} (b : BitVec width) : asmLit width b.toNat = .ok b := by
  have fit : fits width b.toNat = true := decide_eq_true b.isLt
  rw [asmLit, if_pos fit, BitVec.ofNat_toNat, BitVec.setWidth_eq]

/-- Settles O55: the assembler's arm for the line of an instruction reads back each operand. -/
theorem assemblingALineGivesItsInstruction : Obligations.AssemblingALineGivesItsInstruction := by
  intro i
  cases i <;> simp [lineOf, assembleIns, Bind.bind, Except.bind]

end Sys2Proof.Machine
end

section
/-! PROOFS. The written-by column of 10_state.md section 1 and the writes column of section 2, over all instructions. -/

namespace Sys2Proof.Machine

/-! ### Which instruction writes which piece (10_state.md section 1) -/

/-- Each piece of state is as before unless the instruction is one of those listed for it; `V` and `pc` are left open. -/
def State.frameOf (i : Instr) (s t : State) : Prop :=
  t = { s with
    v := t.v, pc := t.pc
    i := bif i.writesI then t.i else s.i
    mem := bif i.writesMem then t.mem else s.mem
    stack := bif i.usesStack then t.stack else s.stack
    sp := bif i.usesStack then t.sp else s.sp
    fault := bif i.usesStack then t.fault else s.fault
    tone := bif i.usesStack then t.tone else s.tone
    disp := bif i.writesDisp then t.disp else s.disp
    dirty := bif i.writesDisp then t.dirty else s.dirty
    dt := bif i.writesDt then t.dt else s.dt
    st := bif i.writesSt then t.st else s.st }

theorem execLdMemVx_frameOf {x : Reg} {s t : State} (h : execLdMemVx x s = .next t) : s.frameOf (.ldMemVx x) t := by
  rw [execLdMemVx, s.dumpRegs_frame] at h
  cases h; rfl

theorem execLdVxMem_frameOf {x : Reg} {s t : State} (h : execLdVxMem x s = .next t) : s.frameOf (.ldVxMem x) t := by
  rw [execLdVxMem, s.loadRegs_frame] at h
  cases h; rfl

/-- Apart from the five whose answer is a case split or a recursion, an instruction's next state is a chain of updates
of the pieces it is listed for. -/
theorem exec_frameOf {i : Instr} {s t : State} (h : exec i s = .next t) : s.frameOf i t := by
  cases i with
  | call nnn => obtain ⟨-, rfl⟩ | ⟨-, rfl⟩ := execCall_cases h <;> rfl
  | ret => obtain ⟨-, rfl⟩ | ⟨-, rfl⟩ := execRet_cases h <;> rfl
  | ldVxK x => obtain ⟨-, rfl⟩ | ⟨k, -, rfl⟩ := execLdVxK_cases h <;> rfl
  | ldMemVx x => exact execLdMemVx_frameOf h
  | ldVxMem x => exact execLdVxMem_frameOf h
  | _ => cases h; rfl

theorem State.frameExec.unkAndRandom_eq {s t : State} (h : s.frameExec t) :
    t.unk = s.unk ∧ t.unkWord = s.unkWord ∧ t.unkPc = s.unkPc ∧ t.rand = s.rand ∧ t.draws = s.draws := by
  rw [h]
  exact ⟨rfl, rfl, rfl, rfl, rfl⟩

section
variable {i : Instr} {s t : State}

theorem exec_cfg (h : exec i s = .next t) : t.cfg = s.cfg := by
  rw [exec_frameOf h]

theorem exec_i (h : exec i s = .next t) (other : i.writesI = false) : t.i = s.i := by
  have := congrArg State.i (exec_frameOf h)
  rwa [other] at this

theorem exec_mem (h : exec i s = .next t) (other : i.writesMem = false) : t.mem = s.mem := by
  have := congrArg State.mem (exec_frameOf h)
  rwa [other] at this

theorem exec_dirty (h : exec i s = .next t) (other : i.writesDisp = false) : t.dirty = s.dirty := by
  have := congrArg State.dirty (exec_frameOf h)
  rwa [other] at this

theorem exec_dt (h : exec i s = .next t) (other : i.writesDt = false) : t.dt = s.dt := by
  have := congrArg State.dt (exec_frameOf h)
  rwa [other] at this

theorem exec_st (h : exec i s = .next t) (other : i.writesSt = false) : t.st = s.st := by
  have := congrArg State.st (exec_frameOf h)
  rwa [other] at this

theorem exec_stack (h : exec i s = .next t) (other : i.usesStack = false) :
    t.stack = s.stack ∧ t.sp = s.sp ∧ t.fault = s.fault ∧ t.tone = s.tone := by
  have frame := exec_frameOf h
  rw [State.frameOf, other] at frame
  rw [frame]
  exact ⟨rfl, rfl, rfl, rfl⟩

theorem State.sameBytes_of_mem_eq (cfg : t.cfg = s.cfg) (mem : t.mem = s.mem) : s.sameBytes t := by
  intro a
  rw [State.readByte, State.readByte, cfg, mem]

end

/-- Settles O27: each piece is read off `frameOf`. -/
theorem onlyListedInstructionsWriteEachPiece : Obligations.OnlyListedInstructionsWriteEachPiece := by
  intro i s t h
  obtain ⟨unk, unkWord, unkPc, rand, draws⟩ := (exec_frame h).unkAndRandom_eq
  exact ⟨exec_i h, fun other => ⟨State.sameBytes_of_mem_eq (exec_cfg h) (exec_mem h other), exec_mem h other⟩,
    exec_stack h, fun other => ⟨exec_disp other h, exec_dirty h other⟩, exec_dt h, exec_st h, (exec_frame h).key_eq,
    unk, unkWord, unkPc, rand, draws, exec_cfg h⟩

/-! ### Which instruction writes which register (10_state.md section 2) -/

@[simp] theorem State.readV_advance (s : State) (y : Reg) : s.advance.readV y = s.readV y := rfl

/-- The writes of registers are one (`writeV`), a result and the flag, the flag alone, or the load's run of registers. -/
theorem exec_readV {i : Instr} {s t : State} {r : Reg} (h : exec i s = .next t) (other : i.writesReg r = false) :
    t.readV r = s.readV r := by
  cases i with
  | call nnn => obtain ⟨-, rfl⟩ | ⟨-, rfl⟩ := execCall_cases h <;> rfl
  | ret => obtain ⟨-, rfl⟩ | ⟨-, rfl⟩ := execRet_cases h <;> rfl
  | ldVxK x =>
    obtain ⟨-, rfl⟩ | ⟨k, -, rfl⟩ := execLdVxK_cases h
    · rfl
    · simp_all [Instr.writesReg, State.readV_writeV]
  | ldMemVx x =>
    cases h
    rw [State.readV_advance, State.dumpRegs_frame]; rfl
  | ldVxMem x =>
    cases h
    have above : ¬ r.val < x.val + 1 := fun hr => of_decide_eq_false other (Nat.le_of_lt_succ hr)
    rw [State.readV_advance, State.readV_loadRegs _ _ (by omega), if_neg above]
  | ldImm x _ | addImm x _ | rnd x _ | ldReg x _ | orReg x _ | andReg x _ | xorReg x _ | ldVxDt x
  | addReg x _ | sub x _ | shr x _ | subn x _ | shl x _ | addI _ | drw _ _ _ =>
    cases h
    simp_all [Instr.writesReg, State.readV_writeV]
  | _ => cases h; rfl

/-- Settles O26, by the instructions. -/
theorem onlyNamedRegistersChange : Obligations.OnlyNamedRegistersChange :=
  fun _ _ _ _ => exec_readV

/-! ### The flag register (10_state.md section 3) -/

theorem State.readV_writeFlag_VF (s : State) (flag : Bool) : (s.writeFlag flag).readV VF = if flag then 1 else 0 := by
  rw [State.writeFlag_eq, State.readV_writeV, if_pos rfl]

/-- An instruction that defines the flag writes it last, and only `pc` after it. -/
theorem exec_readV_VF {i : Instr} {s t : State} (defines : i.definesFlag = true) (h : exec i s = .next t) :
    ∃ flag : Bool, t.readV VF = if flag then 1 else 0 := by
  cases i with
  | addReg x y | sub x y | shr x y | subn x y | shl x y => cases h; exact ⟨_, State.readV_resultFlag_VF ..⟩
  | addI x => cases h; exact ⟨_, State.readV_writeFlag_VF ..⟩
  | drw x y n => cases h; exact ⟨_, State.readV_writeFlag_VF ..⟩
  | _ => cases defines

/-- Settles O25: what is written last to `VF` is a flag. -/
theorem flagIsZeroOrOne : Obligations.FlagIsZeroOrOne := by
  intro i s t defines h
  obtain ⟨flag, hflag⟩ := exec_readV_VF defines h
  cases flag with
  | false => exact .inl hflag
  | true => exact .inr hflag

end Sys2Proof.Machine

end

section
/-! PROOFS. The invariant: the reset state has it (R291), every step keeps it (R26, R33, R34, R61), and so does every
session of host moves (60_exceptions.md section 3). -/

namespace Sys2Proof.Machine

/-- The invariant speaks of five pieces of state only. -/
theorem State.Inv.of_same {s t : State} (inv : s.Inv)
    (same : t = { t with cfg := s.cfg, mem := s.mem, stack := s.stack, sp := s.sp, disp := s.disp }) : t.Inv := by
  rw [same]
  exact ⟨inv.cfg, inv.mem, inv.stack, inv.sp, inv.disp⟩

/-! ### Reset -/

theorem State.inv_resetOf {p : Config.Params} (h : p.wf = true) : (State.resetOf p).Inv where
  cfg := h
  mem := Memory.wf_nil
  stack := List.length_replicate
  sp := Nat.zero_le _
  disp := Display.shaped_clear

/-- Settles O43: the reset state lists no cell, its stack and display are made to size, and `configure` is the check. -/
theorem resetHasCanonicalMemory : Obligations.ResetHasCanonicalMemory := by
  refine ⟨fun p admissible => ⟨State.inv_resetOf admissible, if_pos admissible⟩, fun p refused => ?_,
    State.inv_resetOf (by decide)⟩
  rw [configure, refused, if_neg Bool.false_ne_true]

/-! ### The instructions -/

theorem State.inv_storeDigits {s : State} (inv : s.Inv) (b : Byte) : (s.storeDigits b).Inv :=
  State.inv_writeByte (State.inv_writeByte (State.inv_writeByte inv _ _) _ _) _ _

/-- Apart from the writes of memory, of the stack and of the display, an instruction leaves what the invariant bounds. -/
theorem exec_inv {i : Instr} {s t : State} (inv : s.Inv) (h : exec i s = .next t) : t.Inv := by
  cases i with
  | call nnn =>
    obtain ⟨-, rfl⟩ | ⟨room, rfl⟩ := execCall_cases h
    · exact inv.of_same rfl
    · exact ⟨inv.cfg, inv.mem, List.length_set.trans inv.stack, Nat.lt_of_le_of_ne inv.sp room, inv.disp⟩
  | ret =>
    obtain ⟨-, rfl⟩ | ⟨-, rfl⟩ := execRet_cases h
    · exact inv.of_same rfl
    · exact ⟨inv.cfg, inv.mem, inv.stack, (Nat.sub_le _ _).trans inv.sp, inv.disp⟩
  | ldVxK x =>
    obtain ⟨-, rfl⟩ | ⟨k, -, rfl⟩ := execLdVxK_cases h
    · exact inv
    · exact inv.of_same rfl
  | ldB x =>
    rw [exec_ldB] at h
    cases h
    exact (State.inv_storeDigits inv (s.readV x)).of_same rfl
  | ldMemVx x =>
    cases h
    exact (State.inv_dumpRegs inv (x.val + 1)).of_same rfl
  | ldVxMem x =>
    cases h
    rw [State.loadRegs_frame]
    exact inv.of_same rfl
  | cls => cases h; exact ⟨inv.cfg, inv.mem, inv.stack, inv.sp, Display.shaped_clear⟩
  | drw x y n => cases h; exact ⟨inv.cfg, inv.mem, inv.stack, inv.sp, State.shaped_drawRows inv.disp _ _ _⟩
  | _ => cases h; exact inv.of_same rfl

/-! ### The cycle -/

theorem State.afterExecute_inv {s t : State} (inv : s.Inv) (h : s.afterExecute = .next t) : t.Inv := by
  cases hd : decodeWord s.fetch with
  | none =>
    rw [State.afterExecute_of_none hd] at h
    cases h
    exact inv.of_same rfl
  | some i =>
    rw [State.afterExecute_of_some hd] at h
    exact exec_inv inv h

theorem State.inv_finish {t : State} (inv : t.Inv) : t.finish.Inv := by
  by_cases ht : t.fault = .none
  · rw [State.finish_of_healthy ht]
    exact inv.of_same rfl
  · rwa [State.finish_of_faulted ht]

theorem State.inv_supplyRand {s : State} (inv : s.Inv) (rand : Byte) : (s.supplyRand rand).Inv :=
  inv.of_same rfl

theorem State.inv_countDraw {s : State} (inv : s.Inv) : s.countDraw.Inv :=
  inv.of_same rfl

theorem runCycle_inv {rand : Byte} {s t : State} (inv : s.Inv) (h : runCycle rand s = .next t) : t.Inv := by
  obtain ⟨-, rfl⟩ | ⟨-, u, hu, rfl⟩ := runCycle_cases h
  · exact inv.of_same rfl
  · exact State.inv_finish (State.afterExecute_inv (State.inv_supplyRand inv rand) hu)

theorem State.afterExecute_cfg {s t : State} (h : s.afterExecute = .next t) : t.cfg = s.cfg := by
  cases hd : decodeWord s.fetch with
  | none =>
    rw [State.afterExecute_of_none hd] at h
    cases h
    exact s.recordUnknown_cfg _
  | some i =>
    rw [State.afterExecute_of_some hd] at h
    exact exec_cfg h

@[simp] theorem State.finish_cfg (t : State) : t.finish.cfg = t.cfg := by
  by_cases ht : t.fault = .none
  · rw [State.finish_of_healthy ht, State.tick_cfg]
  · rw [State.finish_of_faulted ht]

theorem runCycle_cfg {rand : Byte} {s t : State} (h : runCycle rand s = .next t) : t.cfg = s.cfg := by
  obtain ⟨-, rfl⟩ | ⟨-, u, hu, rfl⟩ := runCycle_cases h
  · rw [State.faultedCycle_cfg, State.supplyRand_cfg]
  · rw [State.finish_cfg, State.afterExecute_cfg hu, State.supplyRand_cfg]

/-- Settles O44: an instruction keeps the invariant, by the instructions, and the rest of the cycle does not touch what
it bounds. -/
theorem stepKeepsCanonicalMemory : Obligations.StepKeepsCanonicalMemory :=
  fun s _ inv h => ⟨runCycle_inv (State.inv_countDraw inv) h, (runCycle_cfg h).trans s.countDraw_cfg⟩

/-! ### Sessions of host moves -/

/-- A program that is copied fits between `PROG_START` and the end of the array (R261). -/
theorem State.inv_loadProgram {s : State} (inv : s.Inv) (bytes : List Byte) : (s.loadProgram bytes).2.Inv := by
  by_cases tooLong : s.cfg.memSize - s.cfg.progStart < bytes.length
  · rwa [State.loadProgram, if_pos tooLong]
  · rw [State.loadProgram, if_neg tooLong]
    obtain ⟨-, -, -, -, start_lt, -⟩ := params_bounds inv.cfg
    exact { inv with mem := Memory.wf_setAll inv.mem (by omega) }

theorem State.inv_setKey {s t : State} {index : Nat} {pressed : Bool} (inv : s.Inv)
    (h : s.setKey index pressed = .next t) : t.Inv := by
  by_cases inRange : index < 16
  · rw [s.setKey_of_lt pressed inRange] at h
    cases h
    exact inv.of_same rfl
  · rw [State.setKey, dif_neg inRange] at h
    cases h

/-- A move made of an outcome on a state answers with the state of that outcome. -/
theorem eq_live_of_moveOf {o : Host.Outcome State Fault Refusal} {c : Instance} {r : Reply}
    (h : moveOf o = .next (c, r)) : ∃ t, o = .next t ∧ c = .live t := by
  cases o with
  | next u => cases h; exact ⟨u, rfl, rfl⟩
  | fault f => cases h
  | refused f => cases h

theorem State.move_inv {s : State} {m : HostOp} {c : Instance} {r : Reply} (inv : s.Inv)
    (h : s.move m = .next (c, r)) : c.Inv := by
  cases m with
  | initialise =>
    cases h
    exact (State.inv_resetOf inv.cfg).of_same rfl
  | loadProgram bytes => cases h; exact State.inv_loadProgram inv bytes
  | runCycle rand =>
    obtain ⟨t, ht, rfl⟩ := eq_live_of_moveOf h
    exact runCycle_inv inv ht
  | setKey index pressed =>
    obtain ⟨t, ht, rfl⟩ := eq_live_of_moveOf h
    exact State.inv_setKey inv ht
  | displayAck => cases h; exact inv.of_same rfl
  | displaySnapshot | shouldTone | status => cases h; exact inv

/-- Before its first reset a core has no other move than that (R292). -/
theorem hostStep_inv {m : HostOp} {c d : Instance} {r : Reply} (inv : c.Inv) (h : hostStep m c = .next (d, r)) :
    d.Inv := by
  cases c with
  | live s => exact State.move_inv inv h
  | uninitialized p =>
    cases m with
    | initialise => cases h; exact State.inv_resetOf inv
    | _ => cases h

/-- Settles O45, by induction on the session. -/
theorem hostSessionKeepsCanonicalMemory : Obligations.HostSessionKeepsCanonicalMemory := by
  intro ms
  induction ms with
  | nil => intro c d inv h; cases h; exact inv
  | cons m ms ih =>
    intro c d inv h
    rw [hostRun] at h
    cases hm : hostStep m c with
    | next answer =>
      rw [hm] at h
      exact ih _ _ (hostStep_inv inv hm) h
    | fault f => rw [hm] at h; cases h
    | refused r => rw [hm] at h; cases h

end Sys2Proof.Machine

end

section
/-! PROOFS. One cycle (40_cycle.md): it always ends in a next state, what it does with the fetched word, and the faults,
the unknown opcodes and the parked state (60_exceptions.md section 1). -/

namespace Sys2Proof.Machine

/-! ### The instructions with a case split, case by case (R141, R142, R213) -/

section
variable (nnn : Addr12) (x : Reg) {s : State}

theorem exec_call_of_full (h : s.sp = s.cfg.stackDepth) : exec (.call nnn) s = .next (s.raise .stackOverflow) := by
  rw [exec, execCall, s.push_of_full _ h]

theorem exec_call_of_room (h : s.sp ≠ s.cfg.stackDepth) :
    exec (.call nnn) s =
      .next (({ s with stack := s.stack.set s.sp (s.pc + 2), sp := s.sp + 1 } : State).setPc (addrOf nnn)) := by
  rw [exec, execCall, s.push_of_ne _ h, s.nextPc_eq]

theorem exec_ret_of_empty (h : s.sp = 0) : exec .ret s = .next (s.raise .stackUnderflow) := by
  rw [exec, execRet, s.pop_of_empty h]

theorem exec_ret_of_pos (h : 0 < s.sp) :
    exec .ret s = .next (({ s with sp := s.sp - 1 } : State).setPc (s.entry (s.sp - 1))) := by
  rw [exec, execRet, s.pop_of_pos h]

theorem exec_ldVxK_of_none (h : s.firstHeld = none) : exec (.ldVxK x) s = .next s := by
  rw [exec, execLdVxK, h]

theorem exec_ldVxK_of_some {k : Reg} (h : s.firstHeld = some k) :
    exec (.ldVxK x) s = .next (s.result x (BitVec.ofNat 8 k.val)) := by
  rw [exec, execLdVxK, h]; rfl

end

/-! ### Every cycle ends in a next state (R262) -/

theorem exec_total (i : Instr) (s : State) : ∃ t, exec i s = .next t := by
  cases i with
  | call nnn =>
    by_cases full : s.sp = s.cfg.stackDepth
    · exact ⟨_, exec_call_of_full nnn full⟩
    · exact ⟨_, exec_call_of_room nnn full⟩
  | ret =>
    obtain empty | entries := Nat.eq_zero_or_pos s.sp
    · exact ⟨_, exec_ret_of_empty empty⟩
    · exact ⟨_, exec_ret_of_pos entries⟩
  | ldVxK x =>
    cases hk : s.firstHeld with
    | none => exact ⟨_, exec_ldVxK_of_none x hk⟩
    | some k => exact ⟨_, exec_ldVxK_of_some x hk⟩
  | _ => exact ⟨_, rfl⟩

theorem State.afterExecute_total (s : State) : ∃ t, s.afterExecute = .next t := by
  cases hd : decodeWord s.fetch with
  | none => exact ⟨_, State.afterExecute_of_none hd⟩
  | some i =>
    rw [State.afterExecute_of_some hd]
    exact exec_total i s

theorem runCycle_total (rand : Byte) (s : State) : ∃ t, runCycle rand s = .next t := by
  by_cases hs : s.fault = .none
  · obtain ⟨u, hu⟩ := (s.supplyRand rand).afterExecute_total
    exact ⟨_, runCycle_of_healthy rand hs hu⟩
  · exact ⟨_, runCycle_of_faulted rand hs⟩

theorem State.afterExecute_random {s t : State} (h : s.afterExecute = .next t) :
    t.rand = s.rand ∧ t.draws = s.draws := by
  cases hd : decodeWord s.fetch with
  | none =>
    rw [State.afterExecute_of_none hd] at h
    cases h
    exact ⟨rfl, rfl⟩
  | some i =>
    rw [State.afterExecute_of_some hd] at h
    obtain ⟨-, -, -, rand, draws⟩ := (exec_frame h).unkAndRandom_eq
    exact ⟨rand, draws⟩

/-- The end of a cycle writes the timers and `TONE` only. -/
theorem State.finish_frame (t : State) :
    t.finish = { t with dt := t.finish.dt, st := t.finish.st, tone := t.finish.tone } := by
  by_cases ht : t.fault = .none
  · rw [State.finish_of_healthy ht]; rfl
  · rw [State.finish_of_faulted ht]

theorem runCycle_random {rand : Byte} {s t : State} (h : runCycle rand s = .next t) :
    t.rand = rand ∧ t.draws = s.draws := by
  obtain ⟨-, rfl⟩ | ⟨-, u, hu, rfl⟩ := runCycle_cases h
  · exact ⟨rfl, rfl⟩
  · rw [State.finish_frame]
    exact State.afterExecute_random hu

/-- Settles O6: every instruction answers a next state, and none writes the random input. -/
theorem cycleAlwaysSucceeds : Obligations.CycleAlwaysSucceeds := by
  refine ⟨fun rand s => ?_, fun s => rfl⟩
  obtain ⟨t, ht⟩ := runCycle_total rand s
  exact ⟨t, ht, runCycle_random ht⟩

/-! ### A step, by the fetched word (R120) -/

/-- The state a step executes on: the cycle's random byte is drawn and counted (R8). -/
def State.drawRand (s : State) : State := s.countDraw.supplyRand (Config.randByte s.draws)

section
variable {s t : State}

theorem step_of_decoded {i : Instr} (hs : s.healthy) (hd : decodeWord s.fetch = some i)
    (h : exec i s.drawRand = .next t) : step s = .next t.finish :=
  step_of_healthy hs ((State.afterExecute_of_some (s := s.drawRand) hd).trans h)

theorem step_of_unknown (hs : s.healthy) (hd : decodeWord s.fetch = none) :
    step s = .next (s.drawRand.recordUnknown s.fetch).tick := by
  rw [← State.finish_of_healthy (show (s.drawRand.recordUnknown s.fetch).fault = .none from hs)]
  exact step_of_healthy hs (State.afterExecute_of_none (s := s.drawRand) hd)

/-- Everything a step of a healthy core can do. -/
theorem step_cases_of_healthy (hs : s.healthy) (h : step s = .next t) :
    (decodeWord s.fetch = none ∧ t = (s.drawRand.recordUnknown s.fetch).tick) ∨
    ∃ i u, decodeWord s.fetch = some i ∧ exec i s.drawRand = .next u ∧ t = u.finish := by
  cases hd : decodeWord s.fetch with
  | none =>
    rw [step_of_unknown hs hd] at h
    exact .inl ⟨rfl, (Host.Outcome.next.inj h).symm⟩
  | some i =>
    obtain ⟨u, hu⟩ := exec_total i s.drawRand
    rw [step_of_decoded hs hd hu] at h
    exact .inr ⟨i, u, rfl, hu, (Host.Outcome.next.inj h).symm⟩

/-- A step whose instruction leaves the core healthy ends in the tick. -/
theorem step_eq_tick {i : Instr} (hs : s.healthy) (hd : decodeWord s.fetch = some i)
    (h : exec i s.drawRand = .next t) (ht : t.healthy) : step s = .next t.tick := by
  rw [step_of_decoded hs hd h, State.finish_of_healthy ht]

end

/-- Settles O5: the three kinds of step, on the state whose random byte is drawn. -/
theorem stepRunsDecodedInstruction : Obligations.StepRunsDecodedInstruction := by
  rintro s u rfl
  refine ⟨step_of_faulted, step_of_unknown, fun i hs hd => ?_⟩
  obtain ⟨t, ht⟩ := exec_total i { s with rand := Config.randByte s.draws, draws := s.draws + 1 }
  rw [ht]
  exact step_of_decoded hs hd ht

/-! ### Timer instructions (R127) -/

/-- Settles O9: the tick of the same cycle counts down what the instruction left. -/
theorem timerLoadTicksInItsOwnCycle : Obligations.TimerLoadTicksInItsOwnCycle := by
  refine fun s x hs => ⟨fun hd => ?loadDt, fun hd => ?loadSt, fun hd => ?readDt⟩
  case loadDt => exact ⟨_, step_eq_tick hs hd rfl hs, State.tick_dt_setDt_advance ..⟩
  case loadSt =>
    exact ⟨_, step_eq_tick hs hd rfl hs, State.tick_st_setSt_advance .., State.tick_tone_setSt_advance ..⟩
  case readDt =>
    exact ⟨_, step_eq_tick hs hd rfl hs, State.readV_result_self s.drawRand x s.dt, countDown_toNat s.dt⟩

/-! ### Faults (R126, R253, R254) -/

/-- A step whose instruction raises a fault ends there. -/
theorem step_of_raised {s : State} {i : Instr} {f : FaultCode} (hs : s.healthy) (hd : decodeWord s.fetch = some i)
    (h : exec i s.drawRand = .next (s.drawRand.raise f)) (hf : f ≠ .none) : step s = .next (s.drawRand.raise f) := by
  rw [step_of_decoded hs hd h, State.finish_of_faulted hf]

/-- Settles O10: a fault is raised on the state as it is, without a tick, and a faulted core's cycle clears `TONE`. -/
theorem stackFaultFreezesTheCore : Obligations.StackFaultFreezesTheCore := by
  refine fun s => ⟨fun a hs hd full => ?_, fun hs hd empty => ?_, fun hs => ?_⟩
  · exact ⟨_, step_of_raised hs hd (exec_call_of_full (s := s.drawRand) a full) (by decide), rfl, rfl⟩
  · exact ⟨_, step_of_raised hs hd (exec_ret_of_empty (s := s.drawRand) empty) (by decide), rfl, rfl⟩
  · exact ⟨_, step_of_faulted hs, rfl⟩

@[simp] theorem State.finish_fault (t : State) : t.finish.fault = t.fault := by
  rw [State.finish_frame]

/-- Of the instructions on a healthy core only CALL on a full stack and RET on an empty one leave it faulted (R253). -/
theorem exec_faults {i : Instr} {s t : State} (hs : s.healthy) (h : exec i s = .next t) (ht : ¬ t.healthy) :
    (∃ a, i = .call a ∧ s.sp = s.cfg.stackDepth ∧ t.fault = .stackOverflow) ∨
    (i = .ret ∧ s.sp = 0 ∧ t.fault = .stackUnderflow) := by
  cases i with
  | call a =>
    obtain ⟨full, rfl⟩ | ⟨-, rfl⟩ := execCall_cases h
    · exact .inl ⟨a, rfl, full, rfl⟩
    · exact absurd hs ht
  | ret =>
    obtain ⟨empty, rfl⟩ | ⟨-, rfl⟩ := execRet_cases h
    · exact .inr ⟨rfl, empty, rfl⟩
    · exact absurd hs ht
  | _ =>
    obtain ⟨-, -, fault, -⟩ := exec_stack h rfl
    exact absurd (fault.trans hs) ht

/-- Settles O11: neither the record of an unknown opcode nor the end of a cycle faults, and of the instructions only the
two. -/
theorem onlyCallAndRetFault : Obligations.OnlyCallAndRetFault := by
  intro s t hs h ht
  obtain ⟨-, rfl⟩ | ⟨i, u, hd, hu, rfl⟩ := step_cases_of_healthy hs h
  · exact absurd hs ht
  rw [State.healthy, State.finish_fault] at ht
  rw [State.finish_fault]
  obtain ⟨a, rfl, full, fault⟩ | ⟨rfl, empty, fault⟩ := exec_faults (s := s.drawRand) hs hu ht
  · exact .inl ⟨a, hd, full, fault⟩
  · exact .inr ⟨hd, empty, fault⟩

/-! ### Unknown opcodes (R252) -/

/-- Settles O12: an unknown word does not decode, so the step records it and ticks. -/
theorem unknownOpcodeIsSkippedAndReported : Obligations.UnknownOpcodeIsSkippedAndReported :=
  fun s hs unknown =>
    ⟨_, step_of_unknown hs (decodeWord_eq_none_iff.mpr unknown), rfl, rfl, rfl, rfl, countDown_toNat s.dt,
      countDown_toNat s.st, s.tick_tone_iff, fun _ => rfl, rfl⟩

/-! ### The parked state (R129) -/

/-- A 12-bit address is its own low 12 bits. -/
theorem addrOf_ofNat_toNat {a : Word} (h : a.toNat < 4096) : addrOf (BitVec.ofNat 12 a.toNat) = a :=
  BitVec.eq_of_toNat_eq (by rw [addrOf_toNat, BitVec.toNat_ofNat, Nat.mod_eq_of_lt h])

/-- Settles O13: the step runs the jump, which writes to `pc` what is there, and ticks. -/
theorem parkedStateStaysParked : Obligations.ParkedStateStaysParked := by
  intro s parked
  obtain ⟨hs, below, word⟩ := parked
  have hd : decodeWord s.fetch = some (.jp (BitVec.ofNat 12 s.pc.toNat)) := by
    rw [word]
    exact decodeWord_encode (.jp _)
  have jumps : exec (.jp (BitVec.ofNat 12 s.pc.toNat)) s.drawRand = .next s.drawRand := by
    rw [exec, execJp, addrOf_ofNat_toNat below]
    rfl
  exact ⟨_, step_eq_tick hs hd jumps hs, ⟨hs, below, word⟩, rfl⟩

end Sys2Proof.Machine

end

section
/-! PROOFS. Control flow, index and memory, keys (41_control_flow.md, 43_index_memory.md, 44_timer_input.md). -/

namespace Sys2Proof.Machine

/-! ### CALL and RET (R141, R142) -/

/-- The entry a push writes (R141): on a state with the invariant the stack has it. -/
theorem State.entry_push {s : State} (inv : s.Inv) (w : Word) (room : s.sp < s.cfg.stackDepth) :
    ({ s with stack := s.stack.set s.sp w, sp := s.sp + 1 } : State).entry s.sp = w := by
  rw [State.entry, State.getD_set_stack, if_pos ⟨rfl, inv.stack ▸ room⟩]

theorem State.entry_push_other {s : State} (w : Word) {k : Nat} (other : k ≠ s.sp) :
    ({ s with stack := s.stack.set s.sp w, sp := s.sp + 1 } : State).entry k = s.entry k := by
  rw [State.entry, State.getD_set_stack, if_neg (fun same => other same.1), State.entry]

/-- Settles O16: with room, one entry, the counter and `pc` are written; without, the fault is raised. -/
theorem callPushesNextAndJumps : Obligations.CallPushesNextAndJumps := by
  refine fun nnn s => ⟨fun inv room => ?_, exec_call_of_full nnn⟩
  exact ⟨_, exec_call_of_room nnn room.ne, State.entry_push inv _ room, rfl, addrOf_toNat nnn,
    fun k other => State.entry_push_other _ other, List.length_set, rfl, fun _ => rfl⟩

/-- Settles O17: with an entry, the counter and `pc` are written; without, the fault is raised. -/
theorem returnPopsIntoPc : Obligations.ReturnPopsIntoPc :=
  fun _ => ⟨fun entries => ⟨_, exec_ret_of_pos entries, rfl, rfl, rfl, rfl, fun _ => rfl⟩, exec_ret_of_empty⟩

theorem State.frameStack.rest_eq {s t : State} (h : s.frameStack t) : t.v = s.v ∧ t.i = s.i ∧ t.fault = s.fault := by
  rw [h.1]
  exact ⟨rfl, rfl, rfl⟩

/-- Settles O18: the RET takes the entry that the CALL pushed, the address after it, and both stay inside `frameStack`. -/
theorem callThenReturnResumesAfterCall : Obligations.CallThenReturnResumesAfterCall := by
  intro s t a inv hs room hcall h hret
  obtain ⟨called, hcalled, entry, sp, -, -, -, frame⟩ :=
    (callPushesNextAndJumps a s.drawRand).1 (State.inv_supplyRand (State.inv_countDraw inv) _) room
  obtain ⟨v, i, fault⟩ := frame.rest_eq
  have healthy : called.healthy := fault.trans hs
  obtain rfl := Host.Outcome.next.inj ((step_eq_tick hs hcall hcalled healthy).symm.trans h)
  obtain ⟨returned, hreturned, pc', sp', -, frame'⟩ :=
    (returnPopsIntoPc called.tick.drawRand).1 (Nat.lt_of_lt_of_eq (Nat.succ_pos _) sp.symm)
  obtain ⟨v', i', fault'⟩ := frame'.rest_eq
  have healthy' : returned.healthy := fault'.trans healthy
  have counter : called.sp - 1 = s.sp := by rw [sp]; rfl
  refine ⟨_, step_eq_tick (s := called.tick) healthy hret hreturned healthy', ?_, sp'.trans counter, healthy',
    v'.trans v, i'.trans i, fun c => (frame'.2 c).trans (frame.2 c)⟩
  calc returned.pc = called.entry (called.sp - 1) := pc'
    _ = s.pc + 2 := by rw [counter]; exact entry

/-! ### The index register (R190, R191) -/

/-- Settles O28: one write of `I`. -/
theorem loadIndex : Obligations.LoadIndex :=
  fun nnn s => ⟨(s.setI (addrOf nnn)).advance, rfl, addrOf_toNat nnn, rfl, rfl, s.frameIndex_setI_advance _⟩

/-- Settles O29: `I` is written, then the flag, on the sum as it was read. -/
theorem addIndexSetsRangeFlag : Obligations.AddIndexSetsRangeFlag := by
  refine fun x s => ⟨_, rfl, BitVec.toNat_ofNat .., ?flag, rfl, fun y other => ?others, rfl, fun _ => rfl⟩
  case flag => rw [State.readV_advance, State.readV_writeFlag_VF, State.pastMemory]; simp
  case others => rw [State.readV_advance, State.writeFlag_eq, State.readV_writeV, if_neg other,
    State.readV_setI]

/-! ### The dump and the load (R194, R195) -/

theorem State.dumpRegs_advance (s : State) (n : Nat) :
    (s.dumpRegs n).advance = { s with mem := (s.dumpRegs n).mem, pc := s.pc + 2 } := by
  rw [State.dumpRegs_frame]; rfl

theorem State.loadRegs_advance (s : State) (n : Nat) :
    (s.loadRegs n).advance = { s with v := (s.loadRegs n).v, pc := s.pc + 2 } := by
  rw [State.loadRegs_frame]; rfl

/-- Settles O32: the run of stores puts each register at its own reduced address, and changes memory alone. -/
theorem dumpStoresRegisters : Obligations.DumpStoresRegisters := by
  refine fun x s hp =>
    ⟨(s.dumpRegs (x.val + 1)).advance, rfl, fun k hk => ?stored, fun a outside => ?others, ?pc, ?frame⟩
  case stored =>
    rw [State.readByte_advance, State.readByte_dumpRegs_inside hp _ _ (by omega) (Nat.lt_succ_of_le hk), regNum_val]
  case others =>
    rw [State.readByte_advance, State.readByte_dumpRegs_outside]
    exact fun k hk => outside ⟨k, by omega⟩ (Nat.le_of_lt_succ hk)
  case pc => rw [State.dumpRegs_advance]
  case frame => rw [State.dumpRegs_advance]; rfl

/-- Settles O33: the run of loads fills each register from its own address, and changes registers alone. -/
theorem loadFillsRegisters : Obligations.LoadFillsRegisters := by
  refine fun x s =>
    ⟨(s.loadRegs (x.val + 1)).advance, rfl, fun k hk => ?loaded, fun k above => ?others, ?pc, ?frame⟩
  case loaded =>
    rw [State.readV_advance, State.readV_loadRegs _ _ (by omega), if_pos (Nat.lt_succ_of_le hk)]
  case others =>
    rw [State.readV_advance, State.readV_loadRegs _ _ (by omega),
      if_neg fun hk => above (Nat.le_of_lt_succ hk)]
  case pc => rw [State.loadRegs_advance]
  case frame => rw [State.loadRegs_advance]; exact ⟨rfl, fun _ => rfl⟩

/-- Settles O34: the load reads the addresses the dump wrote, since neither writes `I`. -/
theorem loadUndoesDump : Obligations.LoadUndoesDump := by
  intro x s t u hp hdump cfg mem i
  obtain ⟨t', ht', stored, -⟩ := dumpStoresRegisters x s hp
  obtain rfl := Host.Outcome.next.inj (ht'.symm.trans hdump)
  obtain ⟨w, hw, loaded, -⟩ := loadFillsRegisters x u
  refine ⟨w, hw, fun k hk => ?_⟩
  have address : u.dataAddr k.val = s.dataAddr k.val := by
    rw [State.dataAddr, i, exec_i hdump rfl, State.dataAddr]
  rw [loaded k hk, address, State.sameBytes_of_mem_eq cfg mem, stored k hk]

/-! ### A word placed for the host -/

theorem State.fetch_placeWord {s : State} (hp : s.cfg.wf = true) (w : Word) : (s.placeWord w).fetch = w := by
  obtain ⟨memSize_ge, -⟩ := params_bounds hp
  have apart : s.pc.toNat % s.cfg.memSize ≠ (s.pc.toNat + 1) % s.cfg.memSize := by
    intro same
    have := wrapped_ne (j := 0) (k := 1) (n := 2) (by decide) (by decide) (by omega) same
    omega
  show wordOfBytes (((s.writeByte _ (highByte w)).writeByte _ (lowByte w)).readByte s.pc.toNat)
    (((s.writeByte _ (highByte w)).writeByte _ (lowByte w)).readByte (s.pc.toNat + 1)) = w
  rw [State.readByte_writeByte_other (s.writeByte _ _) _ apart, State.readByte_writeByte_same _ _ rfl,
    State.readByte_writeByte_same _ _ rfl, wordOfBytes_bytes]

/-- Settles O54: the two bytes go to distinct reduced addresses, and the host's decoder reads the same two bytes. -/
theorem placedWordIsFetchedNext : Obligations.PlacedWordIsFetchedNext := by
  intro s w hp hw
  have word : tableWord 16 w = BitVec.ofNat 16 w := congrArg (BitVec.ofNat 16) (Nat.mod_eq_of_lt hw)
  refine ⟨?_, rfl, rfl, ?_⟩
  · rw [State.withFetchWord, State.fetch_placeWord hp, word, BitVec.toNat_ofNat, Nat.mod_eq_of_lt hw]
  · rw [decodeTableWord, word]
    cases hd : decodeWord (BitVec.ofNat 16 w) <;> simp [bytesOfWord, decode, hd]

/-! ### Keys (R210, R211, R213) -/

/-- Settles O35: either is a skip on the key that the low nibble names. -/
theorem keySkips : Obligations.KeySkips := by
  intro x k s hk
  obtain rfl : keyIndex (s.readV x) = k := Fin.ext ((keyIndex_val _).trans hk.symm)
  refine ⟨exec_of_eq_skipIf (by rw [Bool.decide_eq_true]; rfl), ?_⟩
  have skipsIfNotHeld : exec (.sknp x) s = .next (s.skipIf (decide (¬ s.held (keyIndex (s.readV x)) = true))) := by
    rw [decide_not, Bool.decide_eq_true]; rfl
  obtain ⟨t, ht, pc, frame⟩ := exec_of_eq_skipIf skipsIfNotHeld
  exact ⟨t, ht, by rw [pc, ite_not], frame⟩

/-- Settles O36: with a key held the answer is a result, the lowest one's code; with none it is the state. -/
theorem keyWaitStoresLowestHeldKey : Obligations.KeyWaitStoresLowestHeldKey := by
  refine fun x s => ⟨fun k held low => ?_, fun none => exec_ldVxK_of_none x (s.firstHeld_eq_none none)⟩
  obtain ⟨t, ht, code, rest⟩ := exec_of_eq_result (exec_ldVxK_of_some x (s.firstHeld_eq_some held low))
  refine ⟨t, ht, ?_, rest⟩
  rw [code, BitVec.toNat_ofNat, Nat.mod_eq_of_lt (by omega)]

end Sys2Proof.Machine

end

section
/-! PROOFS. The sprite draw (45_display.md, R231, R232). -/

namespace Sys2Proof.Machine

section
variable (x y : Reg) (n : Nibble) (s : State)

/-- The display, and whether a pixel was hit, after `DRW Vx, Vy, N` (R231). -/
def State.sprite : Canvas := s.drawRows (s.readV x).toNat (s.readV y).toNat n.toNat

theorem exec_drw : exec (.drw x y n) s =
    .next ((s.present (s.sprite x y n).disp).writeFlag (s.sprite x y n).hit).advance := rfl

theorem State.sprite_paints {s : State} (inv : s.Inv) : Canvas.Paints ⟨s.disp, false⟩ (s.sprite x y n)
    (s.spriteCovers (s.readV x).toNat (s.readV y).toNat n.toNat) :=
  State.drawRows_paints inv _ _ _ (Nat.le_of_lt_succ n.isLt)

/-- A sprite reports a hit exactly if it covers a pixel that is 1. -/
theorem State.sprite_hit_iff {s : State} (inv : s.Inv) : (s.sprite x y n).hit = true ↔
    ∃ r c, s.spriteCovers (s.readV x).toNat (s.readV y).toNat n.toNat r c ∧ s.disp.pixel r c = true := by
  obtain ⟨-, -, hit⟩ := State.sprite_paints x y n inv
  simpa using hit

end

/-- The flag after a draw is the hit of its sprite. -/
theorem exec_drw_readV_VF {x y : Reg} {n : Nibble} {s t : State} (h : exec (.drw x y n) s = .next t) :
    t.readV VF = 1 ↔ (s.sprite x y n).hit = true := by
  rw [exec_drw] at h
  obtain rfl := Host.Outcome.next.inj h
  rw [State.readV_advance, State.readV_writeFlag_VF]
  cases (s.sprite x y n).hit <;> decide

theorem State.spriteCovers_inside {s : State} (inv : s.Inv) {ox oy rows r c : Nat} (h : s.spriteCovers ox oy rows r c) :
    r < s.cfg.dispH ∧ c < s.cfg.dispW := by
  obtain ⟨-, -, -, -, -, -, -, width, height, -⟩ := params_bounds inv.cfg
  obtain ⟨j, -, k, -, -, rfl, rfl⟩ := h
  exact ⟨Nat.mod_lt _ (by omega), Nat.mod_lt _ (by omega)⟩

/-- Settles O40: the sprite paints what it covers, the flag is its hit, and no other register is written. -/
theorem drawXorsTheSprite : Obligations.DrawXorsTheSprite := by
  rintro x y n s P inv rfl
  obtain ⟨inverted, kept, -⟩ := State.sprite_paints x y n inv
  have hit := State.sprite_hit_iff x y n inv
  refine ⟨_, exec_drw x y n s, fun r c covers => ?_, kept, fun collides => ?one, fun clear => ?zero, rfl, rfl,
    fun z other => ?others, rfl, fun _ => rfl⟩
  · obtain ⟨row, column⟩ := State.spriteCovers_inside inv covers
    exact ⟨row, column, inverted r c covers⟩
  case one => rw [State.readV_advance, State.readV_writeFlag_VF, hit.mpr collides, if_pos rfl]
  case zero =>
    have noHit : ¬ (s.sprite x y n).hit = true := by
      intro h
      obtain ⟨r, c, covers, one⟩ := hit.mp h
      rw [clear r c covers] at one
      cases one
    rw [State.readV_advance, State.readV_writeFlag_VF, if_neg noHit]
  case others => rw [State.readV_advance, State.writeFlag_eq, State.readV_writeV, if_neg other,
    State.readV_present]

/-- Settles O41: the second draw covers the same pixels, since neither operand is the register the first writes, so each
is inverted twice, and the second finds a 1 exactly where the first found a 0. -/
theorem drawTwiceRestoresTheDisplay : Obligations.DrawTwiceRestoresTheDisplay := by
  intro x y n s t u inv hx hy first second
  have invT := exec_inv inv first
  have invU := exec_inv invT second
  obtain ⟨t', ht', inverted, kept, -⟩ := drawXorsTheSprite x y n s _ inv rfl
  obtain rfl := Host.Outcome.next.inj (ht'.symm.trans first)
  have covers_eq : t'.spriteCovers (t'.readV x).toNat (t'.readV y).toNat n.toNat =
      s.spriteCovers (s.readV x).toNat (s.readV y).toNat n.toNat := by
    rw [exec_readV first (decide_eq_false hx), exec_readV first (decide_eq_false hy)]
    cases first; rfl
  have hit := State.sprite_hit_iff x y n invT
  obtain ⟨u', hu', inverted', kept', -⟩ := drawXorsTheSprite x y n t' _ invT rfl
  obtain rfl := Host.Outcome.next.inj (hu'.symm.trans second)
  rw [covers_eq] at inverted' kept' hit
  refine ⟨?_, ?_⟩
  · have cfg : u'.cfg = s.cfg := (exec_cfg second).trans (exec_cfg first)
    refine Display.ext_pixel (cfg ▸ invU.disp) inv.disp fun r c => ?_
    by_cases covers : s.spriteCovers (s.readV x).toNat (s.readV y).toNat n.toNat r c
    · rw [(inverted' r c covers).2.2, (inverted r c covers).2.2, Bool.not_not]
    · rw [kept' r c covers, kept r c covers]
  · rw [exec_drw_readV_VF second, hit]
    refine exists_congr fun r => exists_congr fun c => and_congr_right fun covers => ?_
    rw [(inverted r c covers).2.2, Bool.not_eq_true']

end Sys2Proof.Machine

end

section
/-! PROOFS. The reset state's memory and stack (R39), and the host's reset, load and reads (R260 to R267). -/

namespace Sys2Proof.Machine

/-! ### Reset (R39) -/

theorem State.readByte_resetOf (p : Config.Params) (a : Nat) :
    (State.resetOf p).readByte a = Memory.blank p (a % p.memSize) := rfl

@[simp] theorem State.entry_resetOf (p : Config.Params) (k : Nat) : (State.resetOf p).entry k = 0 := by
  show (List.replicate p.stackDepth (0 : Word)).getD k 0 = 0
  rw [List.getD_eq_getElem?_getD, List.getElem?_replicate]
  split <;> rfl

/-- Settles O2: an address reads as its reset contents, which are the font from `FONT_BASE`, and past its bytes 0. -/
theorem resetMemoryHoldsFont : Obligations.ResetMemoryHoldsFont := by
  refine ⟨?_, by decide, by decide⟩
  rintro p s admissible rfl
  obtain ⟨-, -, -, layout, start_lt, fontLength, -⟩ := params_bounds admissible
  refine ⟨fun k hk => ?font, fun a inArray pastFont => ?zeros, List.length_replicate, State.entry_resetOf p, rfl, rfl⟩
  case font =>
    rw [State.readByte_resetOf, Nat.mod_eq_of_lt (by omega), Memory.blank, if_pos (Nat.le_add_right _ _),
      Nat.add_sub_cancel_left]
  case zeros =>
    rw [State.readByte_resetOf, Nat.mod_eq_of_lt inArray, Memory.blank, if_pos (by omega),
      List.getD_eq_default _ _ (by omega)]

/-- Settles O56: `State.initialise` reads nothing of the state but its parameters and `draws`. -/
theorem initializeIsResetAndIdempotent : Obligations.InitializeIsResetAndIdempotent :=
  ⟨fun _ => ⟨rfl, rfl, rfl⟩, fun _ => rfl⟩

/-! ### Loading a program (R261) -/

theorem State.loadProgram_of_tooLong {s : State} {bytes : List Byte} (h : s.cfg.memSize - s.cfg.progStart < bytes.length) :
    s.loadProgram bytes = (.failure, s) :=
  if_pos h

theorem State.loadProgram_of_fits {s : State} {bytes : List Byte} (h : bytes.length ≤ s.cfg.memSize - s.cfg.progStart) :
    s.loadProgram bytes = (.success, { s with mem := s.mem.setAll s.cfg s.cfg.progStart bytes }) :=
  if_neg (Nat.not_lt.mpr h)

/-- Settles O58: a program that fits is one run of bytes, inside the array, so that no address of it is reduced. -/
theorem loadProgramCopiesOrFails : Obligations.LoadProgramCopiesOrFails := by
  intro s bytes admissible
  obtain ⟨-, -, -, -, start_lt, -⟩ := params_bounds admissible
  refine ⟨State.loadProgram_of_tooLong, fun fits =>
    ⟨_, State.loadProgram_of_fits fits, fun k hk => ?copied, fun a inArray outside => ?others, rfl⟩⟩
  case copied =>
    rw [State.readByte, Nat.mod_eq_of_lt (by show _ < s.cfg.memSize; omega), Memory.get_setAll, if_pos (by omega),
      Nat.add_sub_cancel_left, List.getD_eq_getElem _ _ hk]
  case others =>
    rw [State.readByte, State.readByte, Nat.mod_eq_of_lt inArray, Memory.get_setAll, if_neg (by omega)]

/-! ### Reads (R264 to R267) -/

/-- Settles O60: a read answers with the state as it is, and the acknowledgement is one write of `DIRTY`. -/
theorem hostReadsChangeNothing : Obligations.HostReadsChangeNothing :=
  fun _ => ⟨rfl, rfl, rfl, rfl⟩

end Sys2Proof.Machine

end

section
/-! PROOFS. What cannot be told apart (R26, R27, R38): hidden state, dead stack entries, and program addresses that agree
once reduced. Each is one run beside its image: an instruction on the image of a state answers the image of its answer. -/

namespace Sys2Proof.Machine

/-! ### Hidden state (R38) -/

@[simp] theorem State.visible_dumpRegs (s : State) (n : Nat) : s.visible.dumpRegs n = (s.dumpRegs n).visible := by
  induction n with
  | zero => rfl
  | succ n ih => rw [State.dumpRegs, ih]; rfl

@[simp] theorem State.visible_loadRegs (s : State) (n : Nat) : s.visible.loadRegs n = (s.loadRegs n).visible := by
  induction n with
  | zero => rfl
  | succ n ih => rw [State.loadRegs, ih]; rfl

@[simp] theorem State.visible_drawRows (s : State) (ox oy n : Nat) : s.visible.drawRows ox oy n = s.drawRows ox oy n := by
  induction n with
  | zero => rfl
  | succ n ih => rw [State.drawRows, ih]; rfl

theorem exec_visible {i : Instr} {s t : State} (h : exec i s = .next t) :
    ∃ u, exec i s.visible = .next u ∧ u.visible = t.visible := by
  cases i with
  | call nnn =>
    obtain ⟨full, rfl⟩ | ⟨room, rfl⟩ := execCall_cases h
    · exact ⟨_, exec_call_of_full (s := s.visible) nnn full, rfl⟩
    · exact ⟨_, exec_call_of_room (s := s.visible) nnn room, rfl⟩
  | ret =>
    obtain ⟨empty, rfl⟩ | ⟨entries, rfl⟩ := execRet_cases h
    · exact ⟨_, exec_ret_of_empty (s := s.visible) empty, rfl⟩
    · exact ⟨_, exec_ret_of_pos (s := s.visible) entries, rfl⟩
  | ldVxK x =>
    obtain ⟨none, rfl⟩ | ⟨k, some, rfl⟩ := execLdVxK_cases h
    · exact ⟨_, exec_ldVxK_of_none (s := t.visible) x none, rfl⟩
    · exact ⟨_, exec_ldVxK_of_some (s := s.visible) x some, rfl⟩
  | ldMemVx x => cases h; exact ⟨_, rfl, by rw [State.visible_dumpRegs]; rfl⟩
  | ldVxMem x => cases h; exact ⟨_, rfl, by rw [State.visible_loadRegs]; rfl⟩
  | drw x y n => cases h; exact ⟨_, rfl, by rw [State.visible_drawRows]; rfl⟩
  | _ => cases h; exact ⟨_, rfl, rfl⟩

theorem State.visible_finish (t : State) : t.visible.finish.visible = t.finish.visible := by
  by_cases ht : t.fault = .none
  · rw [State.finish_of_healthy ht, State.finish_of_healthy (t := t.visible) ht]; rfl
  · rw [State.finish_of_faulted ht, State.finish_of_faulted (t := t.visible) ht]; rfl

theorem State.visible_finish_congr {t u : State} (h : u.visible = t.visible) : u.finish.visible = t.finish.visible := by
  rw [← u.visible_finish, h, t.visible_finish]

theorem State.fetch_visible (s : State) : s.visible.fetch = s.fetch := rfl

theorem step_visible {s t : State} (h : step s = .next t) : ∃ u, step s.visible = .next u ∧ u.visible = t.visible := by
  by_cases hs : s.healthy
  · obtain ⟨hd, rfl⟩ | ⟨i, v, hd, hv, rfl⟩ := step_cases_of_healthy hs h
    · exact ⟨_, step_of_unknown (s := s.visible) hs hd, by rw [State.fetch_visible]; rfl⟩
    · obtain ⟨u, hu, same⟩ := exec_visible hv
      exact ⟨_, step_of_decoded (s := s.visible) hs hd hu, State.visible_finish_congr same⟩
  · rw [step_of_faulted hs] at h
    cases h
    exact ⟨_, step_of_faulted (s := s.visible) hs, rfl⟩

/-- Settles O46: both steps show what the step of the common visible state shows. -/
theorem hiddenStateDoesNotReachPrograms : Obligations.HiddenStateDoesNotReachPrograms := by
  intro s s' t t' same h h'
  obtain ⟨u, hu, shown⟩ := step_visible h
  obtain ⟨u', hu', shown'⟩ := step_visible h'
  rw [← same, hu] at hu'
  rw [← shown, ← shown', Host.Outcome.next.inj hu']

/-! ### Program addresses replaced (R26, R27) -/

/-- The state with other program addresses: `pc`, the stack entries and `UNK_PC`. -/
def State.relocate (s : State) (pc : Word) (stack : List Word) (unkPc : Word) : State :=
  { s with pc := pc, stack := stack, unkPc := unkPc }

/-- A relation of program addresses that the cycle cannot tell from equality: it is kept by every advance of `pc`, and
related addresses fetch from the same places. -/
structure AddressRel (p : Config.Params) (E : Word → Word → Prop) : Prop where
  refl : ∀ a, E a a
  add : ∀ {a b}, E a b → ∀ d, E (a + d) (b + d)
  place : ∀ {a b}, E a b → ∀ k, (a.toNat + k) % p.memSize = (b.toNat + k) % p.memSize

/-- `s'` is `s` with related program addresses: `pc`, `UNK_PC`, and the stack entries in use, or all of them (`dead`). -/
def State.Relocated (E : Word → Word → Prop) (dead : Prop) (s s' : State) : Prop :=
  ∃ q l u, s' = s.relocate q l u ∧ E q s.pc ∧ E u s.unkPc ∧ l.length = s.stack.length ∧
    ∀ k, k < s.sp ∨ dead → E (l.getD k 0) (s.entry k)

section
variable (s : State) (q : Word) (l : List Word) (u : Word)

theorem State.relocate_dumpRegs (n : Nat) : (s.relocate q l u).dumpRegs n = (s.dumpRegs n).relocate q l u := by
  induction n with
  | zero => rfl
  | succ n ih => rw [State.dumpRegs, ih]; rfl

theorem State.relocate_loadRegs (n : Nat) : (s.relocate q l u).loadRegs n = (s.loadRegs n).relocate q l u := by
  induction n with
  | zero => rfl
  | succ n ih => rw [State.loadRegs, ih]; rfl

theorem State.relocate_drawRows (ox oy n : Nat) : (s.relocate q l u).drawRows ox oy n = s.drawRows ox oy n := by
  induction n with
  | zero => rfl
  | succ n ih => rw [State.drawRows, ih]; rfl

theorem State.relocate_finish : (s.relocate q l u).finish = s.finish.relocate q l u := by
  by_cases hs : s.fault = .none
  · rw [State.finish_of_healthy hs, State.finish_of_healthy (t := s.relocate q l u) hs]; rfl
  · rw [State.finish_of_faulted hs, State.finish_of_faulted (t := s.relocate q l u) hs]

end

theorem exec_ret_relocated {E : Word → Word → Prop} {dead : Prop} {s s' t : State} (related : s.Relocated E dead s')
    (h : exec .ret s = .next t) : ∃ t', exec .ret s' = .next t' ∧ t.Relocated E dead t' := by
  obtain ⟨q, l, u, rfl, hq, hu, len, entries⟩ := related
  obtain ⟨empty, rfl⟩ | ⟨pos, rfl⟩ := execRet_cases h
  · exact ⟨_, exec_ret_of_empty (s := s.relocate q l u) empty, q, l, u, rfl, hq, hu, len, entries⟩
  · exact ⟨_, exec_ret_of_pos (s := s.relocate q l u) pos, l.getD (s.sp - 1) 0, l, u, rfl,
      entries _ (.inl (Nat.sub_lt pos Nat.one_pos)), hu, len,
      fun k hk => entries k (hk.imp_left fun below => Nat.lt_of_lt_of_le below (Nat.sub_le _ _))⟩

section
variable {E : Word → Word → Prop} {dead : Prop} {p : Config.Params} (hE : AddressRel p E)
include hE

theorem AddressRel.skip {a b : Word} (h : E a b) (cond : Bool) :
    E (if cond then a + 4 else a + 2) (if cond then b + 4 else b + 2) := by
  cases cond with
  | false => exact hE.add h 2
  | true => exact hE.add h 4

/-- Related entries written at one place of two stacks of one length leave related entries; past the end both read as 0. -/
theorem AddressRel.getD_set {l m : List Word} (len : l.length = m.length) {a b : Word} (h : E a b) {j k : Nat}
    (others : k ≠ j → E (l.getD k 0) (m.getD k 0)) : E ((l.set j a).getD k 0) ((m.set j b).getD k 0) := by
  rw [State.getD_set_stack, State.getD_set_stack, len]
  by_cases written : k = j ∧ j < m.length
  · rwa [if_pos written, if_pos written]
  · rw [if_neg written, if_neg written]
    by_cases same : k = j
    · have past : m.length ≤ k := Nat.le_of_not_lt fun inside => written ⟨same, same ▸ inside⟩
      rw [List.getD_eq_default _ _ past, List.getD_eq_default _ _ (len ▸ past)]
      exact hE.refl 0
    · exact others same

/-- Outside CALL and RET an instruction reads no program address but `pc`, which it moves on, leaves or replaces. -/
theorem exec_relocate {i : Instr} {s t : State} {q : Word} (l : List Word) (u : Word) (other : i.usesStack = false)
    (hq : E q s.pc) (h : exec i s = .next t) :
    ∃ q', exec i (s.relocate q l u) = .next (t.relocate q' l u) ∧ E q' t.pc := by
  cases i with
  | call | ret => cases other
  | jp nnn | jpV0 nnn => cases h; exact ⟨_, rfl, hE.refl _⟩
  | seImm | sneImm | seReg | sneReg | skp | sknp => cases h; exact ⟨_, rfl, hE.skip hq _⟩
  | ldVxK x =>
    obtain ⟨none, rfl⟩ | ⟨k, some, rfl⟩ := execLdVxK_cases h
    · exact ⟨q, exec_ldVxK_of_none (s := t.relocate q l u) x none, hq⟩
    · exact ⟨q + 2, exec_ldVxK_of_some (s := s.relocate q l u) x some, hE.add hq 2⟩
  | ldMemVx x =>
    cases h
    rw [exec, execLdMemVx, State.relocate_dumpRegs, State.dumpRegs_frame]
    exact ⟨q + 2, rfl, hE.add hq 2⟩
  | ldVxMem x =>
    cases h
    rw [exec, execLdVxMem, State.relocate_loadRegs, State.loadRegs_frame]
    exact ⟨q + 2, rfl, hE.add hq 2⟩
  | drw x y n =>
    cases h
    rw [exec, execDrw, State.relocate_drawRows]
    exact ⟨q + 2, rfl, hE.add hq 2⟩
  | _ => cases h; exact ⟨q + 2, rfl, hE.add hq 2⟩

theorem exec_call_relocated {nnn : Addr12} {s s' t : State} (related : s.Relocated E dead s')
    (h : exec (.call nnn) s = .next t) : ∃ t', exec (.call nnn) s' = .next t' ∧ t.Relocated E dead t' := by
  obtain ⟨q, l, u, rfl, hq, hu, len, entries⟩ := related
  obtain ⟨full, rfl⟩ | ⟨room, rfl⟩ := execCall_cases h
  · exact ⟨_, exec_call_of_full (s := s.relocate q l u) nnn full, q, l, u, rfl, hq, hu, len, entries⟩
  · refine ⟨_, exec_call_of_room (s := s.relocate q l u) nnn room, addrOf nnn, l.set s.sp (q + 2), u, rfl, hE.refl _, hu,
      by rw [List.length_set, len]; exact List.length_set.symm, fun k hk => ?_⟩
    refine hE.getD_set len (hE.add hq 2) fun other => entries k (hk.imp_left fun below => ?_)
    exact Nat.lt_of_le_of_ne (Nat.le_of_lt_succ below) other

theorem exec_relocated {i : Instr} {s s' t : State} (related : s.Relocated E dead s') (h : exec i s = .next t) :
    ∃ t', exec i s' = .next t' ∧ t.Relocated E dead t' := by
  cases uses : i.usesStack with
  | true =>
    cases i with
    | call nnn => exact exec_call_relocated hE related h
    | ret => exact exec_ret_relocated related h
    | _ => cases uses
  | false =>
    obtain ⟨q, l, u, rfl, hq, hu, len, entries⟩ := related
    obtain ⟨q', ht', hq'⟩ := exec_relocate hE l u uses hq h
    obtain ⟨stack, sp, -⟩ := exec_stack h uses
    obtain ⟨-, -, unkPc, -⟩ := (exec_frame h).unkAndRandom_eq
    refine ⟨_, ht', q', l, u, rfl, hq', unkPc ▸ hu, stack ▸ len, fun k hk => ?_⟩
    show E (l.getD k 0) (t.stack.getD k 0)
    rw [stack]
    exact entries k (sp ▸ hk)

end

theorem State.Relocated.finish {E : Word → Word → Prop} {dead : Prop} {t t' : State}
    (related : t.Relocated E dead t') : t.finish.Relocated E dead t'.finish := by
  obtain ⟨q, l, u, rfl, hq, hu, len, entries⟩ := related
  rw [State.relocate_finish]
  have frame := t.finish_frame
  generalize t.finish = f at frame ⊢
  rw [frame]
  exact ⟨q, l, u, rfl, hq, hu, len, entries⟩

section
variable {E : Word → Word → Prop} {dead : Prop} {s s' : State} (hE : AddressRel s.cfg E)
include hE

theorem fetch_relocated {q : Word} (hq : E q s.pc) (l : List Word) (u : Word) : (s.relocate q l u).fetch = s.fetch := by
  have high := hE.place hq 0
  have low := hE.place hq 1
  show wordOfBytes (s.readByte q.toNat) (s.readByte (q.toNat + 1)) = s.fetch
  rw [State.fetch, State.readByte, State.readByte, State.readByte, State.readByte, low, ← Nat.add_zero q.toNat, high,
    Nat.add_zero]

theorem step_relocated {t : State} (related : s.Relocated E dead s') (h : step s = .next t) :
    ∃ t', step s' = .next t' ∧ t.Relocated E dead t' := by
  obtain ⟨q, l, u, rfl, hq, hu, len, entries⟩ := related
  have word := fetch_relocated hE hq l u
  by_cases hs : s.healthy
  · obtain ⟨hd, rfl⟩ | ⟨i, v, hd, hv, rfl⟩ := step_cases_of_healthy hs h
    · rw [← word] at hd
      exact ⟨_, step_of_unknown (s := s.relocate q l u) hs hd, q + 2, l, q, by rw [word]; rfl, hE.add hq 2, hq, len,
        entries⟩
    · obtain ⟨v', hv', after⟩ := exec_relocated (dead := dead) hE (s := s.drawRand) (s' := (s.relocate q l u).drawRand)
        ⟨q, l, u, rfl, hq, hu, len, entries⟩ hv
      rw [← word] at hd
      exact ⟨_, step_of_decoded (s := s.relocate q l u) hs hd hv', after.finish⟩
  · rw [step_of_faulted hs] at h
    cases h
    exact ⟨_, step_of_faulted (s := s.relocate q l u) hs, q, l, u, rfl, hq, hu, len, entries⟩

end

/-! ### Dead stack entries (R26) -/

theorem addressRel_eq (p : Config.Params) : AddressRel p Eq where
  refl _ := rfl
  add h d := by rw [h]
  place h k := by rw [h]

theorem State.sameLiveStack_iff {s s' : State} : s.sameLiveStack s' ↔ s.Relocated Eq False s' := by
  constructor
  · rintro ⟨same, len, entries⟩
    exact ⟨s.pc, s'.stack, s.unkPc, same, rfl, rfl, len, fun k hk => entries k (hk.resolve_right id)⟩
  · rintro ⟨q, l, u, rfl, rfl, rfl, len, entries⟩
    exact ⟨rfl, len, fun k hk => entries k (.inl hk)⟩

/-- Settles O47: a step reads no entry but the newest in use, and writes the same one on both. -/
theorem deadStackEntriesAreNeverRead : Obligations.DeadStackEntriesAreNeverRead := by
  intro s s' t t' related h h'
  obtain ⟨u, hu, after⟩ := step_relocated (addressRel_eq s.cfg) (State.sameLiveStack_iff.mp related) h
  obtain rfl := Host.Outcome.next.inj (hu.symm.trans h')
  exact State.sameLiveStack_iff.mpr after

/-! ### Addresses kept in 16 bits, and reduced (R27) -/

/-- `MEM_SIZE` divides 65536, so the reduction sees through the wrap of a 16-bit sum. -/
theorem toNat_add_mod_memSize {p : Config.Params} (hp : p.wf = true) (a d : Word) :
    (a + d).toNat % p.memSize = (a.toNat + d.toNat) % p.memSize := by
  obtain ⟨-, -, divides, -⟩ := params_bounds hp
  rw [BitVec.toNat_add, Nat.mod_mod_of_dvd _ divides]

theorem addressRel_sameReduced {p : Config.Params} (hp : p.wf = true) : AddressRel p (sameReduced p) where
  refl _ := rfl
  add {a b} h d := by
    rw [sameReduced, toNat_add_mod_memSize hp, toNat_add_mod_memSize hp]
    exact Nat.ModEq.add_right d.toNat h
  place h k := Nat.ModEq.add_right k h

theorem State.sameReducedPc_iff {s s' : State} : s.sameReducedPc s' ↔ s.Relocated (sameReduced s.cfg) True s' := by
  constructor
  · rintro ⟨same, pc, unkPc, len, entries⟩
    exact ⟨s'.pc, s'.stack, s'.unkPc, same, pc, unkPc, len, fun k _ => entries k⟩
  · rintro ⟨q, l, u, rfl, pc, unkPc, len, entries⟩
    exact ⟨rfl, pc, unkPc, len, fun k => entries k (.inr trivial)⟩

/-- Settles O48: `pc` is only advanced, replaced, saved and fetched at, and a word is fetched from reduced addresses. -/
theorem reducedPcIsIndistinguishable : Obligations.ReducedPcIsIndistinguishable := by
  intro s s' t t' hp related h h'
  obtain ⟨u, hu, after⟩ := step_relocated (addressRel_sameReduced hp) (State.sameReducedPc_iff.mp related) h
  obtain rfl := Host.Outcome.next.inj (hu.symm.trans h')
  have cfg : t.cfg = s.cfg := (runCycle_cfg h).trans s.countDraw_cfg
  rw [← cfg] at after
  exact State.sameReducedPc_iff.mpr after

end Sys2Proof.Machine

end
